-- ==== Sys2Proof/Word.lean ====
section
/-!
DEFINITION. The byte, the five axes, the encoder channels and pump channels, and a value held once per axis
(00_scope.md R2, R4). The block has no machine word: positions and counts are exact integers with a stated range.
-/

namespace Sys2Proof

/-- A byte is 8 bits (R4). -/
abbrev Byte := BitVec 8

/-- One stepper-motor and encoder pair; there are exactly five, numbered 1 to 5 (R2). -/
inductive Axis where
  | a1 | a2 | a3 | a4 | a5
  deriving DecidableEq, Repr, Inhabited

/-- The number of an axis, 1 to 5 (R2). -/
def Axis.num : Axis → Nat
  | .a1 => 1
  | .a2 => 2
  | .a3 => 3
  | .a4 => 4
  | .a5 => 5

/-- The axes in ascending order: the order of `for k in 1..5` (00_scope.md section 5.3). -/
def Axis.all : List Axis := [.a1, .a2, .a3, .a4, .a5]

/-- The two quadrature channels of an axis (R40, R100). -/
inductive Channel where
  | chA | chB
  deriving DecidableEq, Repr

/-- The two pump channels, 1 and 2 (R43). -/
inductive PumpChannel where
  | pump1 | pump2
  deriving DecidableEq, Repr

/-- The other channel, `3 - c` in the spec's numbering (R220). -/
def PumpChannel.other : PumpChannel → PumpChannel
  | .pump1 => .pump2
  | .pump2 => .pump1

/-- A value held once per axis (R2: every per-axis item exists five times). -/
structure PerAxis (α : Type) where
  v1 : α
  v2 : α
  v3 : α
  v4 : α
  v5 : α
  deriving DecidableEq, Repr

/-- The value of axis `k`. -/
def PerAxis.get {α : Type} (p : PerAxis α) : Axis → α
  | .a1 => p.v1
  | .a2 => p.v2
  | .a3 => p.v3
  | .a4 => p.v4
  | .a5 => p.v5

/-- `p` with the value of axis `k` replaced; the other four are kept. -/
def PerAxis.set {α : Type} (p : PerAxis α) (k : Axis) (x : α) : PerAxis α :=
  match k with
  | .a1 => { p with v1 := x }
  | .a2 => { p with v2 := x }
  | .a3 => { p with v3 := x }
  | .a4 => { p with v4 := x }
  | .a5 => { p with v5 := x }

/-- The value of every axis given by a function of the axis. -/
def PerAxis.of {α : Type} (f : Axis → α) : PerAxis α :=
  { v1 := f .a1, v2 := f .a2, v3 := f .a3, v4 := f .a4, v5 := f .a5 }

/-- A (red, green, blue) value of the status LED (R44). -/
structure Rgb where
  red : Bool
  green : Bool
  blue : Bool
  deriving DecidableEq, Repr, Inhabited

end Sys2Proof
end

