-- ==== Sys2Proof/Syntax.lean ====
section
/-!
DEFINITION. The command frames: one constructor per row of spec/opcode_table.json (30_encoding.md R86, R87).
A frame keeps every parameter byte, also those its command ignores, as the spec's CommandFrame does (R121), so
that decoding loses nothing (log entry 12).
-/

namespace Sys2Proof

/-- A decoded command frame. -/
inductive Instr where
  /-- `S`, format FN: p1, p2, p3 ignored (R181). -/
  | stop (p1 p2 p3 : Byte)
  /-- `C`, format FA: axis selector p1; p2, p3 ignored (R182). -/
  | cal (sel p2 p3 : Byte)
  /-- `M`, format FM: axis selector p1, direction p2[7] (true = forward), count p2[6:0] : p3 (R82, R183). -/
  | move (sel : Byte) (dir : Bool) (count : BitVec 15)
  /-- `P`, format FR: p1, p2, p3 to PUMP_DECODE (R220). -/
  | pump (p1 p2 p3 : Byte)
  /-- `L`, format FR: p1, p2, p3 to LIGHT_DECODE (R221). -/
  | light (p1 p2 p3 : Byte)
  /-- `D`, format FV: axis selector p1, value PERIOD_DECODE(p1, p2, p3) (R184). -/
  | setp (p1 p2 p3 : Byte)
  /-- `R`, format FN: p1, p2, p3 ignored (R185). -/
  | reset (p1 p2 p3 : Byte)
  /-- Any other opcode byte, format FX: its other bytes are ignored (R87, R222). -/
  | invalid (b1 p1 p2 p3 : Byte)
  deriving DecidableEq, Repr

end Sys2Proof
end

