-- ==== Sys2Proof/WellFormed.lean ====
section
/-!
DEFINITION. Which terms of Instr stand for a frame: every term but an `invalid` that carries one of the seven
opcode bytes, since such a frame is that command and not Invalid (30_encoding.md R86, R87).
-/

namespace Sys2Proof

/-- The seven opcode bytes `S C M P L D R` (R86; ASCII values, 93_implementation_defined.md G1). -/
def opcodeBytes : List Byte := [0x53#8, 0x43#8, 0x4D#8, 0x50#8, 0x4C#8, 0x44#8, 0x52#8]

/-- A well-formed instruction: an `invalid` frame does not carry a recognised opcode byte (R87). -/
def Instr.wf : Instr → Bool
  | .stop _ _ _ => true
  | .cal _ _ _ => true
  | .move _ _ _ => true
  | .pump _ _ _ => true
  | .light _ _ _ => true
  | .setp _ _ _ => true
  | .reset _ _ _ => true
  | .invalid b1 _ _ _ => !opcodeBytes.contains b1

end Sys2Proof
end

