-- ==== Sys2Proof/Decode.lean ====
section
/-!
DEFINITION. The Command Protocol Decoder's reading of bytes, the encoder, and the opcode table's word
numbering (30_encoding.md R80 to R87, R91; 41_frame_decoder.md R121).
-/

namespace Sys2Proof

/-- Why bytes give no frame. The only reason is that fewer than four bytes are given: any four bytes are a
frame, an Invalid one at worst (R80, R87). -/
inductive DecodeError where
  | incompleteFrame
  deriving DecidableEq, Repr

/-- The direction bit of a Move frame, `p2[7]` (R82). -/
def moveDir (p2 : Byte) : Bool := p2.getLsbD 7

/-- The step count of a Move frame, `zext_15(p2[6:0] : p3)`, that is `(p2 & 0x7F) * 256 + p3` (R61, R82). -/
def moveCount (p2 p3 : Byte) : BitVec 15 := BitVec.ofNat 15 ((p2 &&& 0x7F#8).toNat * 256 + p3.toNat)

/-- The frame of four bytes: the opcode is chosen by exact equality (R86, R121), anything else is Invalid
(R87). -/
def decodeFrame (b1 p1 p2 p3 : Byte) : Instr :=
  if b1 = 0x53#8 then .stop p1 p2 p3
  else if b1 = 0x43#8 then .cal p1 p2 p3
  else if b1 = 0x4D#8 then .move p1 (moveDir p2) (moveCount p2 p3)
  else if b1 = 0x50#8 then .pump p1 p2 p3
  else if b1 = 0x4C#8 then .light p1 p2 p3
  else if b1 = 0x44#8 then .setp p1 p2 p3
  else if b1 = 0x52#8 then .reset p1 p2 p3
  else .invalid b1 p1 p2 p3

/-- The first frame of a byte stream with the bytes that follow it: four bytes in arrival order (R62, R80). -/
def decode : List Byte → Except DecodeError (Instr × List Byte)
  | b1 :: p1 :: p2 :: p3 :: rest => .ok (decodeFrame b1 p1 p2 p3, rest)
  | _ => .error .incompleteFrame

/-- The p2 byte of a Move frame: `0x80 | n >> 8` forward, `n >> 8` reverse (R91). -/
def moveHighByte (dir : Bool) (count : BitVec 15) : Byte :=
  (if dir then 0x80#8 else 0x00#8) ||| BitVec.ofNat 8 (count.toNat / 256)

/-- The p3 byte of a Move frame: `n & 0xFF` (R91). -/
def moveLowByte (count : BitVec 15) : Byte := BitVec.ofNat 8 (count.toNat % 256)

/-- The four bytes of a frame, in the order they are sent (R86, R91). -/
def encode : Instr → List Byte
  | .stop p1 p2 p3 => [0x53#8, p1, p2, p3]
  | .cal sel p2 p3 => [0x43#8, sel, p2, p3]
  | .move sel dir count => [0x4D#8, sel, moveHighByte dir count, moveLowByte count]
  | .pump p1 p2 p3 => [0x50#8, p1, p2, p3]
  | .light p1 p2 p3 => [0x4C#8, p1, p2, p3]
  | .setp p1 p2 p3 => [0x44#8, p1, p2, p3]
  | .reset p1 p2 p3 => [0x52#8, p1, p2, p3]
  | .invalid b1 p1 p2 p3 => [b1, p1, p2, p3]

/-- The four bytes, in arrival order, of the opcode table's word `W = b1 : p1 : p2 : p3` (R81): the table
numbers the opcode byte 31:24. Bits from `nbits` up are zero. -/
def tableWordBytes (nbits w : Nat) : List Byte :=
  let v : BitVec 32 := BitVec.ofNat 32 (w % 2 ^ nbits)
  [BitVec.extractLsb' 24 8 v, BitVec.extractLsb' 16 8 v, BitVec.extractLsb' 8 8 v, BitVec.extractLsb' 0 8 v]

/-- The instruction the decoder reads from a word numbered as the opcode table numbers it (R81). -/
def decodeTableWord (nbits w : Nat) : Option Instr :=
  match decode (tableWordBytes nbits w) with
  | .ok (i, _) => some i
  | .error _ => none

end Sys2Proof
end

