-- ==== Sys2Proof/Config.lean ====
section
/-!
DEFINITION. The implementation parameters of 00_scope.md section 4 as one plain record (R3: a model takes them
as arguments), and the configuration the machine is reset with: the spec's value where the spec decides one,
an opaque constant where the table says OPEN.
-/

namespace Sys2Proof

/-- The three parameter bytes p1, p2, p3 of a frame (R80). -/
abbrev ParamBytes := Byte × Byte × Byte

/-- A function of the three parameter bytes as plain data: its listed arguments with their results. Every
function of three bytes has such a table, since it has finitely many arguments (log entry 3). -/
abbrev DecodeTable (α : Type) := List (ParamBytes × α)

/-- What PUMP_DECODE yields when it yields `Some (channel, on)` (R220). -/
structure PumpCmd where
  channel : PumpChannel
  on : Bool
  deriving DecidableEq, Repr

/-- The three status-LED states a Light frame may name (R221). -/
inductive StatusCmd where
  | clearUncalibrated | clearCalibrated | done
  deriving DecidableEq, Repr

/-- What LIGHT_DECODE yields when it does not yield `None` (R221, 90_conflicts.md C10). -/
inductive LightCmd where
  | status (s : StatusCmd) (clearRing : Bool)
  | pixel (index : Nat) (r g b : Byte) (nonBlocking : Bool)
  deriving DecidableEq, Repr

/-- The parameters of 00_scope.md section 4. -/
structure Params where
  /-- `W_POS`: the width of positions, counters and counts. -/
  wPos : Nat
  /-- `ENC_INC`: the counter change per encoder edge. -/
  encInc : Nat
  /-- `POS_UNIT[k]`, also written `U_k` (R32). -/
  posUnit : PerAxis Nat
  /-- `AXIS_SEL_BASE`: the byte that stands for axis 0. -/
  axisSelBase : Byte
  /-- `DIR_FWD_LEVEL`: the DIR level that means forward (true is level 1). -/
  dirFwdLevel : Bool
  /-- `PERIOD_INIT[k]`. -/
  periodInit : PerAxis (BitVec 16)
  /-- `MICROSTEP_INIT[k]`. -/
  microstepInit : PerAxis Nat
  /-- `ERRTHR_INIT[k]`. -/
  errThrInit : PerAxis Nat
  /-- Where `PERIOD_DECODE` differs from its default (empty: the default, D11). -/
  periodTable : DecodeTable (BitVec 16)
  /-- Where `PUMP_DECODE` differs from its default (empty: the default, D12). -/
  pumpTable : DecodeTable (Option PumpCmd)
  /-- `LIGHT_DECODE`; a byte triple not listed yields `None` (D13). -/
  lightTable : DecodeTable LightCmd
  /-- `COLOR_UNCAL`. -/
  colorUncal : Rgb
  /-- `COLOR_CAL`. -/
  colorCal : Rgb
  /-- `COLOR_DONE`. -/
  colorDone : Rgb
  /-- `T_HIGH`: timing only (R279). DESIGN CHOICE: a natural number of an unnamed unit (log entry 18). -/
  tHigh : Nat
  /-- `T_LOW`: timing only (R279). DESIGN CHOICE: a natural number of an unnamed unit (log entry 18). -/
  tLow : Nat
  deriving DecidableEq, Repr

/-- OPEN: `POS_UNIT[k]` less one, so that every value of it is a well-formed `POS_UNIT[k]` (R3, D22). -/
opaque Config.posUnitLessOne : Axis → Nat

/-- OPEN: `PERIOD_INIT[k]` (D25). -/
opaque Config.periodInit : Axis → BitVec 16

/-- OPEN: `MICROSTEP_INIT[k]`, a value of W_POS = 32 bits (D25, D31). -/
opaque Config.microstepInit : Axis → BitVec 32

/-- OPEN: `ERRTHR_INIT[k]`, a value of W_POS = 32 bits (D25, D31). -/
opaque Config.errThrInit : Axis → BitVec 32

/-- OPEN: `LIGHT_DECODE` (D13). -/
opaque Config.lightTable : DecodeTable LightCmd

/-- OPEN: `COLOR_UNCAL` (D14). -/
opaque Config.colorUncal : Rgb

/-- OPEN: `COLOR_CAL` (D14). -/
opaque Config.colorCal : Rgb

/-- OPEN: `COLOR_DONE` (D14). -/
opaque Config.colorDone : Rgb

/-- OPEN: `T_HIGH` (D18), a natural number by log entry 18. -/
opaque Config.tHigh : Nat

/-- OPEN: `T_LOW` (D18), a natural number by log entry 18. -/
opaque Config.tLow : Nat

/-- A FREE VALUE: the delay recorded with a pulse that is made while no axis is running, as a function of
`period_ticks`. R155 shows that no reachable state needs it; the spec gives no value (log entry 6). -/
opaque Config.delayWithNoneRunning : BitVec 16 → Nat

/-- The configuration the machine is reset with: decided values of 00_scope.md section 4, OPEN ones opaque
(log entry 2). -/
def Config.params : Params where
  wPos := 32
  encInc := 4
  posUnit := PerAxis.of fun k => Config.posUnitLessOne k + 1
  axisSelBase := 0x00#8
  dirFwdLevel := true
  periodInit := PerAxis.of Config.periodInit
  microstepInit := PerAxis.of fun k => (Config.microstepInit k).toNat
  errThrInit := PerAxis.of fun k => (Config.errThrInit k).toNat
  periodTable := []
  pumpTable := []
  lightTable := Config.lightTable
  colorUncal := Config.colorUncal
  colorCal := Config.colorCal
  colorDone := Config.colorDone
  tHigh := Config.tHigh
  tLow := Config.tLow

end Sys2Proof
end

