-- ==== Sys2Proof/Machine/State.lean ====
section
/-!
DEFINITION. Everything the spec gives the machine (10_state.md R20 to R51), the reasons a step can stop, the
power-on state (R50, R270) and the state after reset.
-/

namespace Sys2Proof.Machine

/-- The MotorAxis record of one axis (R20 to R31). Positions are W_POS-bit signed integers held as exact
integers; that they stay in range is an invariant (log entry 4). -/
structure MotorAxis where
  /-- R21. -/
  calibrated : Bool
  /-- R22: no rule reads it. -/
  targetPosition : Int
  /-- R23: the open-loop position estimate. -/
  expectedPosition : Int
  /-- R24: the last snapshot of the EncoderCounter. -/
  encoderPosition : Int
  /-- R25: steps left in the current pass. -/
  stepsRemaining : Nat
  /-- R26: true = forward. -/
  direction : Bool
  /-- R27. -/
  correcting : Bool
  /-- R28. -/
  running : Bool
  /-- R29: 16 bits. -/
  periodTicks : BitVec 16
  /-- R30: no rule reads it. -/
  microstepDivisor : Nat
  /-- R31: no rule reads it. -/
  errorThreshold : Nat
  deriving DecidableEq, Repr

/-- The output pins of an axis (R39). -/
inductive Pin where
  | step | dir
  deriving DecidableEq, Repr

/-- The events of the output trace (R6, R51, R251). -/
inductive Event where
  /-- An output pin is driven (true is level 1). -/
  | pinSet (p : Pin) (k : Axis) (level : Bool)
  /-- The timing of a pulse: T_HIGH, T_LOW (naturals by log entry 18) and the per-pulse delay d (R147, R279; log
  entry 7). -/
  | pulseTiming (k : Axis) (high low delay : Nat)
  /-- Four reply bytes are written to the transport. -/
  | txWrite (b0 b1 b2 b3 : Byte)
  /-- `set_channel(channel_id, on)` of the pump driver. -/
  | pumpSet (c : PumpChannel) (on : Bool)
  /-- `set(red, green, blue)` of the status-LED driver. -/
  | statusLed (colour : Rgb)
  /-- `set_pixel(index, r, g, b)` of the LED-ring driver. -/
  | ringPixel (index : Nat) (r g b : Byte)
  /-- `push_frame(non_blocking)` of the LED-ring driver. -/
  | ringPush (nonBlocking : Bool)
  /-- The LED ring is reset (D35). -/
  | ringReset
  /-- `RxCount()`: the decoder calls the transport's `bytes_available()` (R251). DEDUCED that the trace has this
  event, which R251 names and R51 does not (log entry 17). -/
  | rxCount
  /-- `RxPop()`: the decoder calls the transport's `read_byte()` (R251). DEDUCED as for `rxCount` (log entry 17). -/
  | rxPop
  deriving DecidableEq, Repr

/-- A step of an agent other than the Engine, between two Engine iterations (R66, R252). -/
inductive AgentMove where
  /-- Tracker `k` runs its handler for an interrupt of channel `c` (R100). -/
  | trackerEdge (k : Axis) (c : Channel)
  /-- The environment drives the encoder inputs of axis `k` to levels `a` and `b` (R40). -/
  | encoderLevels (k : Axis) (a b : Bool)
  /-- The host sends one byte (R254). -/
  | hostSend (b : Byte)
  /-- The host removes `n` bytes from the head of `tx` (R42, R254). -/
  | hostRead (n : Nat)
  deriving DecidableEq, Repr

/-- Which agent steps: the Engine with one iteration, or another agent. -/
inductive Turn where
  | engine
  | other (m : AgentMove)
  deriving DecidableEq, Repr

/-- The whole machine. -/
structure State where
  /-- The configuration (R3, R20, R32). No step writes it. -/
  cfg : Params
  /-- The MotorAxis records (R20). -/
  axes : PerAxis MotorAxis
  /-- `g.all_calibrated` (R36). -/
  allCalibrated : Bool
  /-- `g.pos_overflow`, the sticky model-only flag (R37). -/
  posOverflow : Bool
  /-- The EncoderCounters (R38). -/
  enc : PerAxis Int
  /-- STEP outputs (R39; true is level 1). -/
  stepPin : PerAxis Bool
  /-- DIR outputs (R39; true is level 1). -/
  dirPin : PerAxis Bool
  /-- ENC_A inputs (R40). -/
  encA : PerAxis Bool
  /-- ENC_B inputs (R40). -/
  encB : PerAxis Bool
  /-- The receive queue, oldest byte first (R41). -/
  rx : List Byte
  /-- The transmit queue, oldest byte first (R42). -/
  tx : List Byte
  /-- `pump_on[1]` (R43). -/
  pump1On : Bool
  /-- `pump_on[2]` (R43). -/
  pump2On : Bool
  /-- The value last sent to the status LED (R44). -/
  statusLed : Rgb
  /-- The output trace, oldest event first (R51). -/
  trace : List Event
  /-- THE MODEL'S OWN FIELD: the pending interleaving (R71), next turn first. When it is empty the Engine
  iterates (log entry 1). -/
  turns : List Turn
  deriving DecidableEq, Repr

/-- The block has no fatal condition and no behaviour of it is a fault (60_exceptions.md R243,
93_implementation_defined.md section 1), so there is no fault: the type has no constructor and no step can
answer one. Safe: nothing is hidden behind a fault (log entry 8). -/
inductive Fault where
  deriving DecidableEq, Repr

/-- Why the model refuses a step. -/
inductive Refusal where
  /-- Raised by `exec` for an instruction that has no meaning yet; no arm raises it now. Safe. -/
  | notModelled (mnemonic : String)
  /-- Raised by `step` when the configuration is not well formed (R3, R243): some POS_UNIT is 0 or W_POS is
  below 16. Safe: the spec says that a model refuses such a configuration. -/
  | illFormedConfig
  deriving DecidableEq, Repr

/-- The MotorAxis record at power-on (R50). -/
def powerOnAxis (c : Params) (k : Axis) : MotorAxis where
  calibrated := false
  targetPosition := 0
  expectedPosition := 0
  encoderPosition := 0
  stepsRemaining := 0
  direction := false
  correcting := false
  running := false
  periodTicks := c.periodInit.get k
  microstepDivisor := c.microstepInit.get k
  errorThreshold := c.errThrInit.get k

/-- The state at power-on of a block with configuration `c` (R50, R270, R271). -/
def powerOn (c : Params) : State where
  cfg := c
  axes := PerAxis.of (powerOnAxis c)
  allCalibrated := false
  posOverflow := false
  enc := PerAxis.of fun _ => 0
  stepPin := PerAxis.of fun _ => false
  dirPin := PerAxis.of fun _ => false
  encA := PerAxis.of fun _ => false
  encB := PerAxis.of fun _ => false
  rx := []
  tx := []
  pump1On := false
  pump2On := false
  statusLed := c.colorUncal
  trace := []
  turns := []

/-- The machine right after reset: the power-on state of the reset configuration (R50, R270). -/
def State.reset : State := powerOn Config.params

end Sys2Proof.Machine
end

