-- ==== Sys2Proof/Machine/Flags.lean ====
section
/-!
DEFINITION. Wrapping of W_POS-bit values and the one computed flag, `g.pos_overflow` (00_scope.md R5,
10_state.md R37). The block has no condition codes (R48).
-/

namespace Sys2Proof.Machine

/-- `wrapS_n(v)`: the integer in `-2^(n-1) ≤ w < 2^(n-1)` that is `v` modulo `2^n` (R5). -/
def wrapS (n : Nat) (v : Int) : Int := Int.bmod v (2 ^ n)

/-- The exact result `v` lies outside the signed `n`-bit range (R37). -/
def outsideSigned (n : Nat) (v : Int) : Bool :=
  decide (v < -(2 ^ (n - 1))) || decide (v ≥ 2 ^ (n - 1))

/-- The overflow mark after a write of the exact result `v`: set when the write wraps, never cleared (R37). -/
def overflowAfter (n : Nat) (v : Int) (mark : Bool) : Bool := mark || outsideSigned n v

end Sys2Proof.Machine
end

