-- ==== Sys2Proof/Machine/Ops.lean ====
section
/-!
DEFINITION. The primitives of 00_scope.md R6 over the state, the configuration check of R3, the replies, and the
block's one exception, ProtocolError (60_exceptions.md R241). There is no return from it: it saves nothing and
the Engine goes on (R241). An interrupt's entry and return are likewise a plain Tracker step (R248).
-/

namespace Sys2Proof.Machine

/-- The configuration is well formed: every POS_UNIT is at least 1 and W_POS is at least 16 (R3). -/
def configOk (c : Params) : Bool :=
  decide (c.posUnit.v1 ≠ 0) && decide (c.posUnit.v2 ≠ 0) && decide (c.posUnit.v3 ≠ 0) &&
    decide (c.posUnit.v4 ≠ 0) && decide (c.posUnit.v5 ≠ 0) && decide (16 ≤ c.wPos)

/-- `ax[k]` (R6). -/
def axisRec (s : State) (k : Axis) : MotorAxis := s.axes.get k

/-- `ax[k] <- m` (R6). -/
def setAxisRec (k : Axis) (m : MotorAxis) (s : State) : State := { s with axes := s.axes.set k m }

/-- `enc[k] <- v` (R6). -/
def setEnc (k : Axis) (v : Int) (s : State) : State := { s with enc := s.enc.set k v }

/-- Record the exact result `v` of a position write in `g.pos_overflow` (R37). -/
def markOverflow (v : Int) (s : State) : State :=
  { s with posOverflow := overflowAfter s.cfg.wPos v s.posOverflow }

/-- `for k in 1..5`: the body once per axis, in ascending order (00_scope.md section 5.3, D28). -/
def forEachAxis (body : Axis → State → State) (s : State) : State :=
  body .a5 (body .a4 (body .a3 (body .a2 (body .a1 s))))

/-- Append an event to the output trace (R6, R51). -/
def emit (e : Event) (s : State) : State := { s with trace := s.trace ++ [e] }

/-- The number that `RxCount()` returns (R6, R65). -/
def rxCount (s : State) : Nat := s.rx.length

/-- The call `RxCount()`, an output event; it has no other effect (R65, R120, R251). -/
def rxCountCall (s : State) : State := emit .rxCount s

/-- The call `RxPop()`: the oldest byte is removed, and the call is an output event (R6, R65, R121, R251). -/
def rxPop (s : State) : State := emit .rxPop { s with rx := s.rx.tail }

/-- `TxWrite(b0, b1, b2, b3)`: four bytes to the transmit queue, `b0` first; it never fails (R6, R65). -/
def txWrite (b0 b1 b2 b3 : Byte) (s : State) : State :=
  emit (.txWrite b0 b1 b2 b3) { s with tx := s.tx ++ [b0, b1, b2, b3] }

/-- `Pin(name, k) <- level` (R6). -/
def setPin (p : Pin) (k : Axis) (level : Bool) (s : State) : State :=
  match p with
  | .step => emit (.pinSet .step k level) { s with stepPin := s.stepPin.set k level }
  | .dir => emit (.pinSet .dir k level) { s with dirPin := s.dirPin.set k level }

/-- `Pulse(k, d)`: STEP goes to 1, then to 0, and the trace records the timing (R6, R147, R279). -/
def pulse (k : Axis) (d : Nat) (s : State) : State :=
  emit (.pulseTiming k s.cfg.tHigh s.cfg.tLow d) (setPin .step k false (setPin .step k true s))

/-- The reply `E010` (R89). -/
def errorReply (s : State) : State := txWrite 0x45#8 0x30#8 0x31#8 0x30#8 s

/-- The reply `A{k}00` (R90). -/
def doneReply (k : Axis) (s : State) : State :=
  txWrite 0x41#8 (0x30#8 + BitVec.ofNat 8 k.num) 0x30#8 0x30#8 s

/-- `raise ProtocolError(frame)`: write `E010`; nothing else changes and the frame is dropped (R241). -/
def raiseProtocolError (s : State) : State := errorReply s

/-- `status_led <- colour; Emit(StatusLed(colour))` (R182, R185, R221). -/
def setStatusLed (colour : Rgb) (s : State) : State :=
  emit (.statusLed colour) { s with statusLed := colour }

/-- `pump_on[c] <- on; Emit(PumpSet(c, on))` (R220). -/
def setPump (c : PumpChannel) (on : Bool) (s : State) : State :=
  match c with
  | .pump1 => emit (.pumpSet .pump1 on) { s with pump1On := on }
  | .pump2 => emit (.pumpSet .pump2 on) { s with pump2On := on }

end Sys2Proof.Machine
end

