-- ==== Sys2Proof/Machine/Operands.lean ====
section
/-!
DEFINITION. The operand forms of the frames: the axis selector (43_motor_commands.md R180), the period value
(30_encoding.md R84), and the pump and light parameters (R85). Move's operands are assembled by the decoder (R82).
-/

namespace Sys2Proof.Machine

/-- `AxisOf(p1)`: the axis `p1 - AXIS_SEL_BASE` when that is in 1..5 (R83, R180). -/
def axisOf (c : Params) (p1 : Byte) : Option Axis :=
  let a : Int := (p1.toNat : Int) - (c.axisSelBase.toNat : Int)
  if a = 1 then some .a1
  else if a = 2 then some .a2
  else if a = 3 then some .a3
  else if a = 4 then some .a4
  else if a = 5 then some .a5
  else none

/-- The default PERIOD_DECODE, `p2 * 256 + p3` (R84, D11). -/
def periodDefault (_p1 p2 p3 : Byte) : BitVec 16 := BitVec.ofNat 16 (p2.toNat * 256 + p3.toNat)

/-- `PERIOD_DECODE(p1, p2, p3)` (R84). -/
def periodDecode (c : Params) (p1 p2 p3 : Byte) : BitVec 16 :=
  (c.periodTable.lookup (p1, p2, p3)).getD (periodDefault p1 p2 p3)

/-- The default PUMP_DECODE: channel p1 when p1 is 1 or 2, on when p2 is not 0 (R220, D12). -/
def pumpDefault (p1 p2 _p3 : Byte) : Option PumpCmd :=
  if p1 = 1#8 then some { channel := .pump1, on := p2 != 0#8 }
  else if p1 = 2#8 then some { channel := .pump2, on := p2 != 0#8 }
  else none

/-- `PUMP_DECODE(p1, p2, p3)` (R220). -/
def pumpDecode (c : Params) (p1 p2 p3 : Byte) : Option PumpCmd :=
  (c.pumpTable.lookup (p1, p2, p3)).getD (pumpDefault p1 p2 p3)

/-- `LIGHT_DECODE(p1, p2, p3)` (R221). -/
def lightDecode (c : Params) (p1 p2 p3 : Byte) : Option LightCmd := c.lightTable.lookup (p1, p2, p3)

/-- The colour a status command sends (R221). -/
def statusColour (c : Params) : StatusCmd → Rgb
  | .clearUncalibrated => c.colorUncal
  | .clearCalibrated => c.colorCal
  | .done => c.colorDone

end Sys2Proof.Machine
end

