-- ==== Sys2Proof/Machine/Motor.lean ====
section
/-!
DEFINITION. The motor commands Stop, Calibrate, Move, SetPeriod and Reset (43_motor_commands.md R180 to R186).
Each is the whole effect of phase 2 of the iteration that consumed its frame (42_engine.md R142).
-/

namespace Sys2Proof.Machine

/-- Stop's loop body for axis `k` (R181). -/
def stopAxis (k : Axis) (s : State) : State :=
  let a := axisRec s k
  let s' := setAxisRec k { a with stepsRemaining := 0, correcting := false, running := false } s
  if a.running then doneReply k s' else s'

/-- `Stop` (R181). -/
def execStop (_p1 _p2 _p3 : Byte) (s : State) : Host.Outcome State Fault Refusal :=
  .next (forEachAxis stopAxis s)

/-- Every axis is calibrated (R182). -/
def allFiveCalibrated (s : State) : Bool :=
  (axisRec s .a1).calibrated && (axisRec s .a2).calibrated && (axisRec s .a3).calibrated &&
    (axisRec s .a4).calibrated && (axisRec s .a5).calibrated

/-- Calibrate's effect on the axis its selector names (R182). -/
def calibrateAxis (k : Axis) (s : State) : State :=
  let s' := setAxisRec k { axisRec s k with calibrated := true, expectedPosition := 0 } s
  if allFiveCalibrated s' then setStatusLed s'.cfg.colorCal { s' with allCalibrated := true } else s'

/-- `Calibrate` (R182). -/
def execCal (sel _p2 _p3 : Byte) (s : State) : Host.Outcome State Fault Refusal :=
  match axisOf s.cfg sel with
  | some k => .next (calibrateAxis k s)
  | none => .next (raiseProtocolError s)

/-- Move's effect on the axis its selector names (R183). -/
def moveAxis (dir : Bool) (count : BitVec 15) (k : Axis) (s : State) : State :=
  setAxisRec k
    { axisRec s k with direction := dir, stepsRemaining := count.toNat, running := true, correcting := false } s

/-- `Move` (R183). -/
def execMove (sel : Byte) (dir : Bool) (count : BitVec 15) (s : State) : Host.Outcome State Fault Refusal :=
  match axisOf s.cfg sel with
  | some k => .next (moveAxis dir count k s)
  | none => .next (raiseProtocolError s)

/-- SetPeriod's effect on the axis its selector names (R184). -/
def setPeriodAxis (value : BitVec 16) (k : Axis) (s : State) : State :=
  setAxisRec k { axisRec s k with periodTicks := value } s

/-- `SetPeriod` (R184). -/
def execSetp (p1 p2 p3 : Byte) (s : State) : Host.Outcome State Fault Refusal :=
  match axisOf s.cfg p1 with
  | some k => .next (setPeriodAxis (periodDecode s.cfg p1 p2 p3) k s)
  | none => .next (raiseProtocolError s)

/-- Reset's loop body for axis `k` (R185). -/
def resetAxis (k : Axis) (s : State) : State :=
  setAxisRec k
    { axisRec s k with
      calibrated := false, targetPosition := 0, expectedPosition := 0, encoderPosition := 0,
      stepsRemaining := 0, direction := false, correcting := false, running := false } s

/-- `Reset` (R185): the command, not the power-on reset. -/
def execReset (_p1 _p2 _p3 : Byte) (s : State) : Host.Outcome State Fault Refusal :=
  let s1 := { forEachAxis resetAxis s with allCalibrated := false }
  .next (setStatusLed s.cfg.colorUncal (emit .ringReset s1))

end Sys2Proof.Machine
end

