-- ==== Sys2Proof/Machine/Peripheral.lean ====
section
/-!
DEFINITION. The peripheral commands Pump and Light, and Invalid (44_peripheral_commands.md R220 to R224).
-/

namespace Sys2Proof.Machine

/-- What Pump does with a decoded request: the other channel is switched off before one is switched on
(R220). -/
def drivePump (p : PumpCmd) (s : State) : State :=
  if p.on then setPump p.channel true (setPump p.channel.other false s) else setPump p.channel false s

/-- `Pump` (R220). -/
def execPump (p1 p2 p3 : Byte) (s : State) : Host.Outcome State Fault Refusal :=
  match pumpDecode s.cfg p1 p2 p3 with
  | some p => .next (drivePump p s)
  | none => .next (raiseProtocolError s)

/-- What Light does with a decoded request (R221). -/
def driveLight (l : LightCmd) (s : State) : State :=
  match l with
  | .status st clearRing =>
    setStatusLed (statusColour s.cfg st) (if clearRing then emit .ringReset s else s)
  | .pixel index r g b nonBlocking => emit (.ringPush nonBlocking) (emit (.ringPixel index r g b) s)

/-- `Light` (R221). -/
def execLight (p1 p2 p3 : Byte) (s : State) : Host.Outcome State Fault Refusal :=
  .next (match lightDecode s.cfg p1 p2 p3 with
    | some l => driveLight l s
    | none => raiseProtocolError s)

/-- `Invalid` (R222). -/
def execInvalid (_b1 _p1 _p2 _p3 : Byte) (s : State) : Host.Outcome State Fault Refusal :=
  .next (raiseProtocolError s)

end Sys2Proof.Machine
end

