-- ==== Sys2Proof/Machine/Dispatch.lean ====
section
/-!
DEFINITION. The dispatch of a decoded frame to its command (41_frame_decoder.md R122): phase 2 of an iteration.
-/

namespace Sys2Proof.Machine

def exec (i : Instr) (s : State) : Host.Outcome State Fault Refusal :=
  match i with
  | .stop p1 p2 p3 => Sys2Proof.Machine.execStop p1 p2 p3 s
  | .cal sel p2 p3 => Sys2Proof.Machine.execCal sel p2 p3 s
  | .move sel dir count => Sys2Proof.Machine.execMove sel dir count s
  | .pump p1 p2 p3 => Sys2Proof.Machine.execPump p1 p2 p3 s
  | .light p1 p2 p3 => Sys2Proof.Machine.execLight p1 p2 p3 s
  | .setp p1 p2 p3 => Sys2Proof.Machine.execSetp p1 p2 p3 s
  | .reset p1 p2 p3 => Sys2Proof.Machine.execReset p1 p2 p3 s
  | .invalid b1 p1 p2 p3 => Sys2Proof.Machine.execInvalid b1 p1 p2 p3 s

end Sys2Proof.Machine
end

