-- ==== Sys2Proof/Machine/Engine.lean ====
section
/-!
DEFINITION. The Engine's phases 1, 3 and 4: clearing the outputs, timing division, stepping, completion and the
single correction pass (42_engine.md R140 to R157).
-/

namespace Sys2Proof.Machine

/-- Phase 1: STEP and DIR of every axis to 0 (R141). -/
def clearOutputs (s : State) : State :=
  forEachAxis (fun k t => setPin .dir k false (setPin .step k false t)) s

/-- Phase 3: `#{k | ax[k].running}` (R143). -/
def totalRunning (s : State) : Nat :=
  (axisRec s .a1).running.toNat + (axisRec s .a2).running.toNat + (axisRec s .a3).running.toNat +
    (axisRec s .a4).running.toNat + (axisRec s .a5).running.toNat

/-- `DirLevel(direction)` (R145). -/
def dirLevel (c : Params) (direction : Bool) : Bool :=
  if direction then c.dirFwdLevel else !c.dirFwdLevel

/-- The per-pulse delay `period_ticks div total` (R147). With no axis running the spec gives no value and R155
says it cannot happen: a free value (log entry 6). -/
def pulseDelay (period : BitVec 16) (total : Nat) : Nat :=
  if total = 0 then Config.delayWithNoneRunning period else period.toNat / total

/-- `ExpectedAdvance(k)` (R146). -/
def expectedAdvance (k : Axis) (s : State) : State :=
  let a := axisRec s k
  let u : Int := (s.cfg.posUnit.get k : Int)
  let v := a.expectedPosition + (if a.direction then u else -u)
  setAxisRec k { a with expectedPosition := wrapS s.cfg.wPos v } (markOverflow v s)

/-- One step of axis `k`: direction output, open-loop advance unless correcting, pulse, decrement (R145 to
R148). -/
def stepAxis (total : Nat) (k : Axis) (s : State) : State :=
  let a := axisRec s k
  let s1 := setPin .dir k (dirLevel s.cfg a.direction) s
  let s2 := if a.correcting then s1 else expectedAdvance k s1
  let s3 := pulse k (pulseDelay a.periodTicks total) s2
  setAxisRec k { axisRec s3 k with stepsRemaining := a.stepsRemaining - 1 } s3

/-- `Finish(k)` (R152). -/
def finish (k : Axis) (s : State) : State :=
  doneReply k (setAxisRec k { axisRec s k with running := false, correcting := false } s)

/-- The snapshot of the EncoderCounter (R150). -/
def snapshot (k : Axis) (s : State) : State :=
  setAxisRec k { axisRec s k with encoderPosition := s.enc.get k } s

/-- The correction decision after the snapshot (R151): start a correction pass when the exact difference is at
least one unit, else finish; a correction pass is never followed by another (R153). -/
def correctOrFinish (k : Axis) (s : State) : State :=
  let a := axisRec s k
  let u := s.cfg.posUnit.get k
  let rem := (a.expectedPosition - a.encoderPosition).natAbs
  if a.correcting then finish k s
  else if u ≤ rem then
    setAxisRec k
      { a with
        direction := decide (a.encoderPosition < a.expectedPosition)
        stepsRemaining := rem / u
        correcting := true } s
  else finish k s

/-- `Complete(k)` (R149 to R152). -/
def complete (k : Axis) (s : State) : State := correctOrFinish k (snapshot k s)

/-- Phase 4 for axis `k`: step when steps remain (R144), then complete when the axis is running with none left
(R149). -/
def engineAxis (total : Nat) (k : Axis) (s : State) : State :=
  let s1 := if 0 < (axisRec s k).stepsRemaining then stepAxis total k s else s
  if (axisRec s1 k).running && decide ((axisRec s1 k).stepsRemaining = 0) then complete k s1 else s1

/-- Phases 3 and 4: the count is taken once and used for every axis (R143). -/
def motionPhases (s : State) : State := forEachAxis (engineAxis (totalRunning s)) s

end Sys2Proof.Machine
end

