-- ==== Sys2Proof/Machine/Tracker.lean ====
section
/-!
DEFINITION. The Quadrature Position Tracker's edge handler (40_quadrature_tracker.md R100 to R104) and the moves
of the environment: encoder levels (10_state.md R40) and the host (60_exceptions.md R254).
-/

namespace Sys2Proof.Machine

/-- `forward(c, a, b)`: the edge on channel `c`, with levels `a` and `b` after it, is forward (R101). -/
def forwardEdge (c : Channel) (a b : Bool) : Bool :=
  match c with
  | .chA => a != b
  | .chB => a == b

/-- The counter change of an edge, `±ENC_INC` (R102). -/
def edgeDelta (c : Params) (ch : Channel) (a b : Bool) : Int :=
  if forwardEdge ch a b then (c.encInc : Int) else -(c.encInc : Int)

/-- `TrackerEdge(k, c, a, b)` (R102). -/
def trackerEdge (k : Axis) (c : Channel) (a b : Bool) (s : State) : State :=
  let v := s.enc.get k + edgeDelta s.cfg c a b
  setEnc k (wrapS s.cfg.wPos v) (markOverflow v s)

/-- One step of an agent other than the Engine: Tracker `k`'s handler reads both levels of its axis (R100); the
environment sets levels (R40); the host sends a byte or removes bytes from the head of `tx` (R254). -/
def agentStep (m : AgentMove) (s : State) : State :=
  match m with
  | .trackerEdge k c => trackerEdge k c (s.encA.get k) (s.encB.get k) s
  | .encoderLevels k a b => { s with encA := s.encA.set k a, encB := s.encB.set k b }
  | .hostSend b => { s with rx := s.rx ++ [b] }
  | .hostRead n => { s with tx := s.tx.drop n }

end Sys2Proof.Machine
end

