-- ==== Sys2Proof/Machine/Iteration.lean ====
section
/-!
DEFINITION. The decoder's poll (41_frame_decoder.md R120, R121), one Engine iteration (42_engine.md R140), the
choice of the agent that steps (20_memory.md R71) and where a frame waits to be fetched.
-/

namespace Sys2Proof.Machine

/-- `DecodeFrame()`'s four pops, oldest byte first (R121). -/
def popFrame (s : State) : State := rxPop (rxPop (rxPop (rxPop s)))

/-- The poll: the decoder reads the count once, and a frame is consumed exactly when four bytes are waiting (R120);
its four bytes are then popped (R121). Answers the frame, if one is consumed, and the state after the poll. -/
def pollFrame (s : State) : Option Instr × State :=
  if rxCount s = 4 then
    match decode s.rx with
    | .ok (i, _) => (some i, popFrame (rxCountCall s))
    | .error _ => (none, rxCountCall s)
  else (none, rxCountCall s)

/-- The iteration after its command phase: phases 3 and 4 run on the state the command left (R140, R142). -/
def afterCommand (o : Host.Outcome State Fault Refusal) : Host.Outcome State Fault Refusal :=
  match o with
  | .next t => .next (motionPhases t)
  | .fault r => .fault r
  | .refused r => .refused r

/-- One Engine iteration (R140): clear the outputs, poll and dispatch at most one frame, then phases 3 and 4. -/
def iteration (s : State) : Host.Outcome State Fault Refusal :=
  match pollFrame (clearOutputs s) with
  | (some i, t) => afterCommand (exec i t)
  | (none, t) => afterCommand (.next t)

/-- One step of whichever agent is next (R71, R252): the first pending turn, or an Engine iteration when none is
pending, since the Engine never blocks (R253). -/
def nextTurn (s : State) : Host.Outcome State Fault Refusal :=
  match s.turns with
  | [] => iteration s
  | .engine :: rest => iteration { s with turns := rest }
  | .other m :: rest => .next (agentStep m { s with turns := rest })

/-- A step of a well-formed configuration; an ill-formed one is refused (R3). -/
def guardedTurn (s : State) : Host.Outcome State Fault Refusal :=
  if configOk s.cfg then nextTurn s else .refused .illFormedConfig

/-- `s` with the bytes `bs` as the whole receive queue and an Engine iteration as the next turn, so that the next
step polls them. -/
def placeFrame (bs : List Byte) (s : State) : State := { s with rx := bs, turns := .engine :: s.turns }

end Sys2Proof.Machine
end

