-- ==== Sys2Proof/Machine/Step.lean ====
section
/-!
DEFINITION. One step of the machine, and the placing of a frame where the next step fetches it. Both only call
operations of Machine/Iteration.lean.
-/

namespace Sys2Proof.Machine

/-- One step: one turn of one agent (R252). -/
def step (s : State) : Host.Outcome State Fault Refusal := guardedTurn s

/-- `s` with the frame of the opcode table's word `w` waiting in the receive queue and the Engine next to step
(R41, R120). -/
def State.withFetchWord (s : State) (nbits w : Nat) : State := placeFrame (tableWordBytes nbits w) s

end Sys2Proof.Machine
end

