-- ==== Sys2Proof/Safety.lean ====
section
/-!
DEFINITION. The terms claims are stated in: the per-axis state (10_state.md R33), the replies (30_encoding.md
R89, R90), the invariants of the block, settled states (70_reset_and_hazards.md R280), and what of a state timing
or the unread registers can reach.
-/

namespace Sys2Proof

open Sys2Proof.Machine

/-- The per-axis states of R33. -/
inductive MotionState where
  | idle | moving | correcting
  deriving DecidableEq, Repr

/-- The per-axis state as a function of the flags; none for the combination that exists only inside one
iteration, running with no steps left (R33). -/
def motionState (a : MotorAxis) : Option MotionState :=
  if 0 < a.stepsRemaining then (if a.correcting then some .correcting else some .moving)
  else if a.running then none
  else some .idle

/-- The bytes of the reply `E010` (R89). -/
def errorBytes : List Byte := [0x45#8, 0x30#8, 0x31#8, 0x30#8]

/-- The bytes of the reply `A{k}00` (R90). -/
def doneBytes (k : Axis) : List Byte := [0x41#8, BitVec.ofNat 8 (0x30 + k.num), 0x30#8, 0x30#8]

/-- The trace event of the reply `E010`. -/
def errorEvent : Event := .txWrite 0x45#8 0x30#8 0x31#8 0x30#8

/-- The trace event of the reply `A{k}00`. -/
def doneEvent (k : Axis) : Event := .txWrite 0x41#8 (BitVec.ofNat 8 (0x30 + k.num)) 0x30#8 0x30#8

/-- `s` with the reply `E010` written and nothing else changed (R241). -/
def withErrorReply (s : State) : State :=
  { s with tx := s.tx ++ errorBytes, trace := s.trace ++ [errorEvent] }

/-- The selector byte names axis `k` (R83). -/
def Selects (c : Params) (sel : Byte) (k : Axis) : Prop :=
  (sel.toNat : Int) - (c.axisSelBase.toNat : Int) = (k.num : Int)

/-- The selector byte names no axis: `sel - AXIS_SEL_BASE` is not in 1..5 (R83). -/
def SelectsNone (c : Params) (sel : Byte) : Prop :=
  ¬(1 ≤ (sel.toNat : Int) - (c.axisSelBase.toNat : Int) ∧ (sel.toNat : Int) - (c.axisSelBase.toNat : Int) ≤ 5)

/-- The next step is an Engine iteration that leaves the turns `r`. -/
def EngineNext (s : State) (r : List Turn) : Prop :=
  (s.turns = [] ∧ r = []) ∨ s.turns = .engine :: r

/-- The ten events of phase 1 (R141). -/
def clearEvents : List Event :=
  Axis.all.flatMap fun k => [.pinSet .step k false, .pinSet .dir k false]

/-- `s` after the Engine took its turn and phase 1 cleared the ten outputs (R141). -/
def clearedState (s : State) (r : List Turn) : State :=
  { s with
    turns := r
    stepPin := PerAxis.of fun _ => false
    dirPin := PerAxis.of fun _ => false
    trace := s.trace ++ clearEvents }

/-- The events of a poll of `n` waiting bytes: the count, and four pops when a frame is consumed (R120, R121,
R251). -/
def pollEvents (n : Nat) : List Event :=
  if n = 4 then [.rxCount, .rxPop, .rxPop, .rxPop, .rxPop] else [.rxCount]

/-- `s` after phase 1 and a poll that consumed no frame (R120, R141). -/
def polledState (s : State) (r : List Turn) : State :=
  { clearedState s r with trace := s.trace ++ clearEvents ++ [.rxCount] }

/-- `s` after phase 1 and a poll that consumed the one waiting frame (R120, R121, R141). -/
def consumedState (s : State) (r : List Turn) : State :=
  { clearedState s r with
    rx := []
    trace := s.trace ++ clearEvents ++ [.rxCount, .rxPop, .rxPop, .rxPop, .rxPop] }

/-- The next step of `s` is an Engine iteration of a well-formed configuration that leaves the turns `r`, and `u`
is the state its command phase leaves for phases 3 and 4: the polled state when no frame is consumed, else what
the consumed frame's command makes of the state after the poll (R120 to R122, R140 to R142). -/
def CommandPhase (s : State) (r : List Turn) (u : State) : Prop :=
  EngineNext s r ∧ configOk s.cfg = true ∧
    ((s.rx.length ≠ 4 ∧ u = polledState s r) ∨
      ∃ i, decode s.rx = .ok (i, []) ∧ exec i (consumedState s r) = .next u)

/-- The frame makes its command raise ProtocolError (R240). -/
def RaisesError (c : Params) : Instr → Prop
  | .stop _ _ _ => False
  | .cal sel _ _ => SelectsNone c sel
  | .move sel _ _ => SelectsNone c sel
  | .pump p1 p2 p3 => pumpDecode c p1 p2 p3 = none
  | .light p1 p2 p3 => lightDecode c p1 p2 p3 = none
  | .setp p1 _ _ => SelectsNone c p1
  | .reset _ _ _ => False
  | .invalid _ _ _ _ => True

/-- The delays of the pulses of axis `k` in a list of events, in order (R147). -/
def pulseDelays (k : Axis) (es : List Event) : List Nat :=
  es.filterMap fun e => match e with
    | .pulseTiming j _ _ d => if j = k then some d else none
    | _ => none

/-- `v` is in the signed `n`-bit range (R5). -/
def InSigned (n : Nat) (v : Int) : Prop := -(2 ^ (n - 1) : Int) ≤ v ∧ v < (2 ^ (n - 1) : Int)

/-- R34 and R35 for one axis. -/
def AxisPassInv (a : MotorAxis) : Prop :=
  (a.running = true ↔ 0 < a.stepsRemaining) ∧ (a.correcting = true → 0 < a.stepsRemaining)

/-- R34 and R35: at a boundary an axis runs exactly while steps remain, and corrects only then. -/
def PassInv (s : State) : Prop := ∀ k, AxisPassInv (axisRec s k)

/-- The widths of 10_state.md sections 2 and 5 for one axis: positions in the signed W_POS range, counts below
2^W_POS. -/
def AxisRangeInv (n : Nat) (a : MotorAxis) : Prop :=
  InSigned n a.targetPosition ∧ InSigned n a.expectedPosition ∧ InSigned n a.encoderPosition ∧
    a.stepsRemaining < 2 ^ n ∧ a.microstepDivisor < 2 ^ n ∧ a.errorThreshold < 2 ^ n

/-- Every position, counter and count fits its width. -/
def RangeInv (s : State) : Prop :=
  ∀ k, AxisRangeInv s.cfg.wPos (axisRec s k) ∧ InSigned s.cfg.wPos (s.enc.get k)

/-- `all_calibrated` says that all five axes are calibrated (R36). -/
def CalibrationInv (s : State) : Prop :=
  s.allCalibrated = true ↔ ∀ k, (axisRec s k).calibrated = true

/-- Every STEP output is 0 (R39). -/
def StepLow (s : State) : Prop := ∀ k, s.stepPin.get k = false

/-- The pump levels (channel 1, channel 2) after one event, from those before it (R43). -/
def pumpAfter (p : Bool × Bool) : Event → Bool × Bool
  | .pumpSet .pump1 on => (on, p.2)
  | .pumpSet .pump2 on => (p.1, on)
  | _ => p

/-- The pump levels after the calls of a trace, both off before the first (R43). -/
def pumpsAfter (es : List Event) : Bool × Bool := es.foldl pumpAfter (false, false)

/-- R223: after every event of the trace at most one pump has been left on, and `pump_on` is what the calls so
far made it. -/
def PumpInv (s : State) : Prop :=
  pumpsAfter s.trace = (s.pump1On, s.pump2On) ∧
    ∀ n, ¬((pumpsAfter (s.trace.take n)).1 = true ∧ (pumpsAfter (s.trace.take n)).2 = true)

/-- A settled boundary (R280): `rx` is empty and every axis is Idle. -/
def Settled (s : State) : Prop := s.rx = [] ∧ ∀ k, motionState (axisRec s k) = some .idle

/-- The open-loop estimate of axis `k` after its step in phase 4: unchanged without a step or while correcting,
else advanced by one unit in the axis's direction and wrapped (R144, R146). -/
def advanced (s : State) (k : Axis) : Int :=
  let a := axisRec s k
  if a.stepsRemaining = 0 ∨ a.correcting = true then a.expectedPosition
  else wrapS s.cfg.wPos
    (a.expectedPosition + (if a.direction = true then (s.cfg.posUnit.get k : Int) else -(s.cfg.posUnit.get k : Int)))

/-- `|expected_position - encoder_position|` at axis `k`'s snapshot in phase 4, exact (R150, R151). -/
def passError (s : State) (k : Axis) : Nat := (advanced s k - s.enc.get k).natAbs

/-- Axis `k` completes a pass in phase 4: it is running and its last step is made in this iteration, or none was
left (R149). -/
def completesPass (s : State) (k : Axis) : Bool :=
  (axisRec s k).running && decide ((axisRec s k).stepsRemaining ≤ 1)

/-- At the completion of a move pass a correction pass is due: the error is at least one unit (R151). -/
def correctionDue (s : State) (k : Axis) : Bool :=
  !(axisRec s k).correcting && decide (s.cfg.posUnit.get k ≤ passError s k)

/-- Axis `k` finishes in phase 4: it completes a pass and no correction pass follows (R151 to R153). -/
def finishes (s : State) (k : Axis) : Bool := completesPass s k && !correctionDue s k

/-- The events of one step of axis `k` with `total` axes running (R145, R147). -/
def stepEvents (s : State) (total : Nat) (k : Axis) : List Event :=
  let a := axisRec s k
  [.pinSet .dir k (if a.direction then s.cfg.dirFwdLevel else !s.cfg.dirFwdLevel),
    .pinSet .step k true, .pinSet .step k false,
    .pulseTiming k s.cfg.tHigh s.cfg.tLow (pulseDelay a.periodTicks total)]

/-- The events of phase 4 for axis `k` (R144 to R152). -/
def phase4Events (s : State) (total : Nat) (k : Axis) : List Event :=
  (if 0 < (axisRec s k).stepsRemaining then stepEvents s total k else []) ++
    (if finishes s k then [doneEvent k] else [])

/-- Every value an axis record gets each axis from a function of it. -/
def mapAxes (f : MotorAxis → MotorAxis) (p : PerAxis MotorAxis) : PerAxis MotorAxis :=
  PerAxis.of fun k => f (p.get k)

/-- An axis record without its timing (R29). -/
def hideAxisTiming (a : MotorAxis) : MotorAxis := { a with periodTicks := 0#16 }

/-- An event without its timing (R279). -/
def hideEventTiming : Event → Event
  | .pulseTiming k _ _ _ => .pulseTiming k 0 0 0
  | e => e

/-- `s` with everything that is timing only erased: period_ticks, the period decode, T_HIGH, T_LOW and the
delays of the trace (R29, R147, R279). -/
def hideTiming (s : State) : State :=
  { s with
    cfg := { s.cfg with tHigh := 0, tLow := 0, periodTable := [] }
    axes := mapAxes hideAxisTiming s.axes
    trace := s.trace.map hideEventTiming }

/-- An axis record without the registers that no rule reads (R22, R30, R31). -/
def hideAxisUnread (a : MotorAxis) : MotorAxis :=
  { a with targetPosition := 0, microstepDivisor := 0, errorThreshold := 0 }

/-- `s` with the registers that no rule reads erased: target_position, microstep_divisor, error_threshold (R22,
R30, R31). -/
def hideUnread (s : State) : State := { s with axes := mapAxes hideAxisUnread s.axes }

end Sys2Proof
end

