-- ==== Sys2Proof/Certificates/Slice0/Obligations.lean ====
section
/-!
DEFINITION. The statements for the provers, in the order of OBLIGATIONS.json. Each docstring names the rules of
spec/ its statement formalises.
-/

open Sys2Proof Sys2Proof.Machine

/-! ### Frames and their encoding -/

/-- One word per family, written out from the spec's encodings (R86, R91, V1, V12). -/
def Obligations.SpecWordsDecode : Prop :=
  decode [0x53#8, 0x00#8, 0x00#8, 0x00#8] = .ok (.stop 0x00#8 0x00#8 0x00#8, []) ∧
  decode [0x43#8, 0x03#8, 0x00#8, 0x00#8] = .ok (.cal 0x03#8 0x00#8 0x00#8, []) ∧
  decode [0x4D#8, 0x02#8, 0x81#8, 0x2C#8] = .ok (.move 0x02#8 true 300#15, []) ∧
  decode [0x50#8, 0x01#8, 0x01#8, 0x00#8] = .ok (.pump 0x01#8 0x01#8 0x00#8, []) ∧
  decode [0x4C#8, 0x03#8, 0x10#8, 0x20#8] = .ok (.light 0x03#8 0x10#8 0x20#8, []) ∧
  decode [0x44#8, 0x01#8, 0x03#8, 0xE8#8] = .ok (.setp 0x01#8 0x03#8 0xE8#8, []) ∧
  decode [0x52#8, 0x00#8, 0x00#8, 0x00#8] = .ok (.reset 0x00#8 0x00#8 0x00#8, []) ∧
  decode [0x73#8, 0x00#8, 0x00#8, 0x00#8] = .ok (.invalid 0x73#8 0x00#8 0x00#8 0x00#8, [])

/-- Decoding the bytes of a well-formed frame gives it back, with the bytes that follow left over (R80 to R87). -/
def Obligations.DecodeOfEncodeIsIdentity : Prop :=
  ∀ (i : Instr) (rest : List Byte), i.wf = true → decode (encode i ++ rest) = .ok (i, rest)

/-- Every four bytes are a well-formed frame whose encoding is those bytes: no bit is dropped (R80 to R87). -/
def Obligations.EncodeOfDecodeIsIdentity : Prop :=
  ∀ b1 p1 p2 p3 : Byte,
    (decodeFrame b1 p1 p2 p3).wf = true ∧ encode (decodeFrame b1 p1 p2 p3) = [b1, p1, p2, p3]

/-- The opcode byte selects the command by exact equality with one of seven values, case-sensitively (R86). The byte
values are the ASCII codes that R86 supplies (93_implementation_defined.md G1). -/
def Obligations.OpcodeByteSelectsCommand : Prop :=
  ∀ b1 p1 p2 p3 : Byte,
    ((∃ x y z, decodeFrame b1 p1 p2 p3 = .stop x y z) ↔ b1 = 0x53#8) ∧
    ((∃ x y z, decodeFrame b1 p1 p2 p3 = .cal x y z) ↔ b1 = 0x43#8) ∧
    ((∃ x y z, decodeFrame b1 p1 p2 p3 = .move x y z) ↔ b1 = 0x4D#8) ∧
    ((∃ x y z, decodeFrame b1 p1 p2 p3 = .pump x y z) ↔ b1 = 0x50#8) ∧
    ((∃ x y z, decodeFrame b1 p1 p2 p3 = .light x y z) ↔ b1 = 0x4C#8) ∧
    ((∃ x y z, decodeFrame b1 p1 p2 p3 = .setp x y z) ↔ b1 = 0x44#8) ∧
    ((∃ x y z, decodeFrame b1 p1 p2 p3 = .reset x y z) ↔ b1 = 0x52#8) ∧
    ((∃ w x y z, decodeFrame b1 p1 p2 p3 = .invalid w x y z) ↔
      b1 ≠ 0x53#8 ∧ b1 ≠ 0x43#8 ∧ b1 ≠ 0x4D#8 ∧ b1 ≠ 0x50#8 ∧ b1 ≠ 0x4C#8 ∧ b1 ≠ 0x44#8 ∧ b1 ≠ 0x52#8)

/-- Move's operands: direction is p2[7] and the count is `(p2 & 0x7F) * 256 + p3`, in 0..32767 (R82). -/
def Obligations.MoveOperandAssembly : Prop :=
  ∀ p1 p2 p3 : Byte, ∃ (dir : Bool) (count : BitVec 15),
    decodeFrame 0x4D#8 p1 p2 p3 = .move p1 dir count ∧
    (dir = true ↔ (p2 >>> 7) &&& 1#8 = 1#8) ∧
    count.toNat = (p2 &&& 0x7F#8).toNat * 256 + p3.toNat ∧
    count.toNat ≤ 32767

/-- Fewer than four bytes are no frame, and four or more give a frame of exactly the first four (R80). -/
def Obligations.FramesAreFourBytes : Prop :=
  (∀ bs : List Byte, bs.length < 4 → decode bs = .error .incompleteFrame) ∧
  (∀ bs : List Byte, 4 ≤ bs.length → ∃ i, decode bs = .ok (i, bs.drop 4) ∧ i.wf = true ∧ encode i = bs.take 4)

/-! ### The iteration and its poll -/

/-- A STEP RUNS THE DECODED FRAME: when the Engine is next and four bytes wait, the step clears the outputs, removes
the frame, runs exec of it and then phases 3 and 4 (R122, R140, R142). The poll's calls stand in the trace as R251
says; R51 does not list them (log entry 17). -/
def Obligations.StepRunsDecodedFrame : Prop :=
  ∀ (s : State) (r : List Turn) (i : Instr),
    configOk s.cfg = true → EngineNext s r → decode s.rx = .ok (i, []) →
    ∃ t, exec i (consumedState s r) = .next t ∧ step s = .next (motionPhases t)

/-- The poll: four waiting bytes are consumed; with 0, 1, 2, 3 or more than 4 nothing is consumed and no command is
dispatched (R120). The poll's calls stand in the trace as R251 says; R51 does not list them (log entry 17). -/
def Obligations.PollConsumesExactlyFour : Prop :=
  ∀ (s : State) (r : List Turn), configOk s.cfg = true → EngineNext s r →
    (s.rx.length = 4 → ∃ t, step s = .next t ∧ t.rx = []) ∧
    (s.rx.length ≠ 4 → step s = .next (motionPhases (polledState s r)) ∧
      ∀ t, step s = .next t → t.rx = s.rx)

/-- Once more than four bytes wait, no later poll of any run consumes one: the queue only grows, and every Engine
iteration does without a command (R126, which the spec derives from R120, R121 and R254). The poll's calls stand in the
trace as R251 says; R51 does not list them (log entry 17). -/
def Obligations.StalledDecoderNeverRecovers : Prop :=
  ∀ (n : Nat) (s t : State), 4 < s.rx.length → Sys2Proof.core.run n s = .next t →
    (∃ more, t.rx = s.rx ++ more) ∧
    ∀ r, configOk t.cfg = true → EngineNext t r → step t = .next (motionPhases (polledState t r))

/-- The replies and events of a whole iteration, in order: phase 1, the poll, the command, then phase 4 axis by axis
(R140, R247). The form of the timing event of a pulse is the model's choice (log entry 7); the order of the axes is the
spec's decision D28 (log entry 16); the poll's calls stand in the trace as R251 says, and R51 does not list them (log
entry 17). -/
def Obligations.IterationOutputOrder : Prop :=
  ∀ (s u : State) (r : List Turn), CommandPhase s r u →
    ∃ t cmdEvents cmdBytes, step s = .next t ∧
      u.trace = s.trace ++ clearEvents ++ pollEvents s.rx.length ++ cmdEvents ∧
      u.tx = s.tx ++ cmdBytes ∧
      t.trace = s.trace ++ clearEvents ++ pollEvents s.rx.length ++ cmdEvents ++
        Axis.all.flatMap (fun k => phase4Events u ((Axis.all.filter fun j => (axisRec u j).running).length) k) ∧
      t.tx = s.tx ++ cmdBytes ++ Axis.all.flatMap (fun k => if finishes u k then doneBytes k else [])

/-- After an iteration STEP is 0 on every axis, and DIR is the direction level of an axis that stepped and 0 on
one that did not (R39, R141, R144, R145). -/
def Obligations.OutputsAfterIteration : Prop :=
  ∀ (s u : State) (r : List Turn), CommandPhase s r u →
    ∃ t, step s = .next t ∧ ∀ k,
      t.stepPin.get k = false ∧
      t.dirPin.get k =
        (if 0 < (axisRec u k).stepsRemaining then
          (if (axisRec u k).direction then s.cfg.dirFwdLevel else !s.cfg.dirFwdLevel)
        else false)

/-- An axis that does not complete a pass in this iteration: with steps left it decrements them and, unless
correcting, advances its open-loop estimate by one unit; with none it is unchanged (R144, R146, R148). -/
def Obligations.SteppingAxis : Prop :=
  ∀ (s u : State) (r : List Turn), CommandPhase s r u →
    ∃ t, step s = .next t ∧ ∀ k, completesPass u k = false →
      axisRec t k = { axisRec u k with
        stepsRemaining := (axisRec u k).stepsRemaining - 1
        expectedPosition :=
          if (axisRec u k).stepsRemaining = 0 ∨ (axisRec u k).correcting = true then (axisRec u k).expectedPosition
          else if (axisRec u k).direction = true then
            wrapS s.cfg.wPos ((axisRec u k).expectedPosition + (s.cfg.posUnit.get k : Int))
          else wrapS s.cfg.wPos ((axisRec u k).expectedPosition - (s.cfg.posUnit.get k : Int)) }

/-- The open-loop estimates after an iteration: an axis that made a pulse of a move pass advanced by one unit in its
direction and wrapped, every other one kept its estimate; the overflow mark is set exactly when it was, or when an
exact result of this iteration lay outside the signed W_POS range (R146). -/
def Obligations.OpenLoopAdvance : Prop :=
  ∀ (s u : State) (r : List Turn), CommandPhase s r u →
    ∃ t, step s = .next t ∧
      (∀ k, (axisRec t k).expectedPosition =
        if 0 < (axisRec u k).stepsRemaining ∧ (axisRec u k).correcting = false then
          wrapS s.cfg.wPos ((axisRec u k).expectedPosition +
            (if (axisRec u k).direction = true then (s.cfg.posUnit.get k : Int) else -(s.cfg.posUnit.get k : Int)))
        else (axisRec u k).expectedPosition) ∧
      (t.posOverflow = true ↔ s.posOverflow = true ∨
        ∃ k, 0 < (axisRec u k).stepsRemaining ∧ (axisRec u k).correcting = false ∧
          ¬InSigned s.cfg.wPos ((axisRec u k).expectedPosition +
            (if (axisRec u k).direction = true then (s.cfg.posUnit.get k : Int) else -(s.cfg.posUnit.get k : Int))))

/-- An axis that completes a pass takes the snapshot; then a move pass whose exact error is at least one unit hands
over to a correction pass of `rem div U_k` steps, and otherwise the axis finishes (R149 to R152). After the command
phase the replies are those of the axes that finish, in ascending order, and no other (R140, R247); the order of the
axes is the spec's decision D28 (log entry 16). -/
def Obligations.CompletingAxis : Prop :=
  ∀ (s u : State) (r : List Turn), CommandPhase s r u →
    ∃ t, step s = .next t ∧
      t.tx = u.tx ++ (Axis.all.filter fun k => (axisRec u k).running && decide ((axisRec u k).stepsRemaining ≤ 1) &&
        ((axisRec u k).correcting || decide ((advanced u k - s.enc.get k).natAbs < s.cfg.posUnit.get k))).flatMap
          doneBytes ∧
      ∀ k, (axisRec u k).running = true → (axisRec u k).stepsRemaining ≤ 1 →
      (axisRec t k).encoderPosition = s.enc.get k ∧
      (axisRec t k).expectedPosition = advanced u k ∧
      ((axisRec u k).correcting = false ∧ s.cfg.posUnit.get k ≤ (advanced u k - s.enc.get k).natAbs →
        (axisRec t k).running = true ∧ (axisRec t k).correcting = true ∧
        (axisRec t k).direction = decide (s.enc.get k < advanced u k) ∧
        (axisRec t k).stepsRemaining = (advanced u k - s.enc.get k).natAbs / s.cfg.posUnit.get k ∧
        1 ≤ (axisRec t k).stepsRemaining) ∧
      ((axisRec u k).correcting = true ∨ (advanced u k - s.enc.get k).natAbs < s.cfg.posUnit.get k →
        (axisRec t k).running = false ∧ (axisRec t k).correcting = false ∧
        (axisRec t k).direction = (axisRec u k).direction ∧ (axisRec t k).stepsRemaining = 0) ∧
      (axisRec t k).calibrated = (axisRec u k).calibrated ∧
      (axisRec t k).targetPosition = (axisRec u k).targetPosition ∧
      (axisRec t k).periodTicks = (axisRec u k).periodTicks ∧
      (axisRec t k).microstepDivisor = (axisRec u k).microstepDivisor ∧
      (axisRec t k).errorThreshold = (axisRec u k).errorThreshold

/-- A correction pass is never followed by a second one: an iteration without a command only counts it down, and
its last step finishes the axis whatever the encoder says (R153, which the spec derives from R151 and R152). -/
def Obligations.SingleShotCorrection : Prop :=
  ∀ (s : State) (r : List Turn) (k : Axis), configOk s.cfg = true → EngineNext s r → s.rx.length ≠ 4 →
    (axisRec s k).correcting = true → (axisRec s k).running = true → 1 ≤ (axisRec s k).stepsRemaining →
    ∃ t, step s = .next t ∧
      (axisRec t k).stepsRemaining = (axisRec s k).stepsRemaining - 1 ∧
      (axisRec t k).expectedPosition = (axisRec s k).expectedPosition ∧
      ((axisRec s k).stepsRemaining = 1 → motionState (axisRec t k) = some .idle) ∧
      ((axisRec s k).stepsRemaining ≠ 1 → motionState (axisRec t k) = some .correcting)

/-- Each axis makes at most one pulse in an iteration, exactly when steps remain after the command phase, and its
delay is its base delay divided by the number of running axes, counted once after the command phase (R143,
R147, R154). -/
def Obligations.PulseDelayIsDivided : Prop :=
  ∀ (s u : State) (r : List Turn), CommandPhase s r u → (∃ j, (axisRec u j).running = true) →
    ∃ t, step s = .next t ∧ ∀ k,
      pulseDelays k (t.trace.drop s.trace.length) =
        if 0 < (axisRec u k).stepsRemaining then
          [(axisRec u k).periodTicks.toNat / (Axis.all.filter fun j => (axisRec u j).running).length]
        else []

/-- No division by zero: from a boundary that meets R34 and R35, an axis that steps is counted as running
(R155, which the spec derives from R143, R144 and R156). -/
def Obligations.SteppingAxisIsCounted : Prop :=
  ∀ (s u : State) (r : List Turn) (k : Axis), PassInv s → CommandPhase s r u → 0 < (axisRec u k).stepsRemaining →
    (axisRec u k).running = true ∧ 1 ≤ totalRunning u

/-- The per-axis state machine in an iteration without a command: Idle stays Idle, Moving may stay, start a
correction or become Idle, Correcting may stay or become Idle (R33, R149 to R153). -/
def Obligations.MotionStateTransitions : Prop :=
  ∀ (s : State) (r : List Turn), PassInv s → configOk s.cfg = true → EngineNext s r → s.rx.length ≠ 4 →
    ∃ t, step s = .next t ∧ ∀ k,
      (motionState (axisRec s k) = some .idle → motionState (axisRec t k) = some .idle) ∧
      (motionState (axisRec s k) = some .moving →
        motionState (axisRec t k) = some .moving ∨ motionState (axisRec t k) = some .correcting ∨
          motionState (axisRec t k) = some .idle) ∧
      (motionState (axisRec s k) = some .correcting →
        motionState (axisRec t k) = some .correcting ∨ motionState (axisRec t k) = some .idle) ∧
      motionState (axisRec s k) ≠ none

/-- A move pass runs: with the Engine alone and no frame, a moving axis makes one step per iteration and its estimate
moves one unit a step in its direction. Before its last step it stays Moving; with its last step the pass is complete:
the counter is read, and the axis is Idle with its reply written when the error is below one unit, else it corrects
(R157, which the spec derives from R140, R142, R144, R149 and R151). -/
def Obligations.MovePassRuns : Prop :=
  ∀ (n : Nat) (s : State) (k : Axis), configOk s.cfg = true → RangeInv s → s.turns = [] → s.rx.length ≠ 4 →
    (axisRec s k).running = true → (axisRec s k).correcting = false → n ≤ (axisRec s k).stepsRemaining →
    ∃ t, Sys2Proof.core.run n s = .next t ∧
      (axisRec t k).expectedPosition = wrapS s.cfg.wPos ((axisRec s k).expectedPosition +
        (if (axisRec s k).direction = true then (n : Int) else -(n : Int)) * (s.cfg.posUnit.get k : Int)) ∧
      (pulseDelays k (t.trace.drop s.trace.length)).length = n ∧
      (n < (axisRec s k).stepsRemaining →
        (axisRec t k).stepsRemaining = (axisRec s k).stepsRemaining - n ∧
        (axisRec t k).running = true ∧ (axisRec t k).correcting = false ∧
        (axisRec t k).direction = (axisRec s k).direction) ∧
      (1 ≤ n → n = (axisRec s k).stepsRemaining →
        (axisRec t k).encoderPosition = s.enc.get k ∧
        (((axisRec t k).expectedPosition - s.enc.get k).natAbs < s.cfg.posUnit.get k →
          motionState (axisRec t k) = some .idle ∧ (axisRec t k).direction = (axisRec s k).direction ∧
          doneEvent k ∈ t.trace.drop s.trace.length) ∧
        (s.cfg.posUnit.get k ≤ ((axisRec t k).expectedPosition - s.enc.get k).natAbs →
          motionState (axisRec t k) = some .correcting ∧
          (axisRec t k).stepsRemaining =
            ((axisRec t k).expectedPosition - s.enc.get k).natAbs / s.cfg.posUnit.get k ∧
          ((axisRec t k).direction = true ↔ s.enc.get k < (axisRec t k).expectedPosition)))

/-- From a settled boundary with no host byte and no edge, an iteration only clears the ten outputs and polls, and the
boundary after it is settled again (R280, which the spec derives from R140 and R34). The poll's calls stand in the
trace as R251 says; R51 does not list them (log entry 17). -/
def Obligations.SettledIterationOnlyClears : Prop :=
  ∀ (s : State) (r : List Turn), configOk s.cfg = true → EngineNext s r → Settled s →
    step s = .next (polledState s r) ∧ Settled (polledState s r)

/-! ### Invariants -/

/-- R34 and R35 hold at power-on and are kept by every step (R156, which the spec derives from the rules of the
commands and of phase 4). -/
def Obligations.StepKeepsPassInvariant : Prop :=
  (∀ s t : State, PassInv s → step s = .next t → PassInv t) ∧ ∀ c : Params, PassInv (powerOn c)

/-- Every position and counter stays in the signed W_POS range and every count below 2^W_POS; in particular a
correction's step count fits (R22 to R25, R30, R31, R38, R151). -/
def Obligations.StepKeepsRanges : Prop :=
  ∀ s t : State, RangeInv s → step s = .next t → RangeInv t

/-- `all_calibrated` stays the same as all five axes being calibrated (R36). -/
def Obligations.StepKeepsCalibrationFlag : Prop :=
  ∀ s t : State, CalibrationInv s → step s = .next t → CalibrationInv t

/-- At every point of the output trace at most one pump has been left on (R223, which the spec derives from R220 and
R43). -/
def Obligations.StepKeepsPumpsExclusive : Prop :=
  ∀ s t : State, PumpInv s → step s = .next t → PumpInv t ∧ ¬(t.pump1On = true ∧ t.pump2On = true)

/-- At every boundary every STEP output is 0 (R39). -/
def Obligations.StepKeepsStepLow : Prop :=
  ∀ s t : State, StepLow s → step s = .next t → StepLow t

/-- The state after reset meets every invariant and has a well-formed configuration (R50, R156). That no pump call stands
in its trace is the model's choice (log entry 5), and so is a reset configuration whose POS_UNIT values are at least 1
(log entry 2). -/
def Obligations.ResetMeetsInvariants : Prop :=
  configOk State.reset.cfg = true ∧ PassInv State.reset ∧ RangeInv State.reset ∧ CalibrationInv State.reset ∧
    PumpInv State.reset ∧ StepLow State.reset

/-- The overflow mark is sticky (R37). -/
def Obligations.OverflowMarkIsSticky : Prop :=
  ∀ s t : State, step s = .next t → s.posOverflow = true → t.posOverflow = true

/-- A step that leaves the overflow mark false wrote exact values: an edge moved its counter by exactly ENC_INC and
a stepping axis its estimate by exactly one unit (R37, R102, R146). -/
def Obligations.UnmarkedStepsAreExact : Prop :=
  (∀ (s t : State) (k : Axis) (c : Channel) (r : List Turn),
    s.turns = .other (.trackerEdge k c) :: r → step s = .next t → t.posOverflow = false →
    t.enc.get k = s.enc.get k + s.cfg.encInc ∨ t.enc.get k = s.enc.get k - s.cfg.encInc) ∧
  (∀ (s u t : State) (r : List Turn) (k : Axis), CommandPhase s r u → step s = .next t → t.posOverflow = false →
    0 < (axisRec u k).stepsRemaining → (axisRec u k).correcting = false →
    (axisRec t k).expectedPosition = (axisRec u k).expectedPosition +
      (if (axisRec u k).direction = true then (s.cfg.posUnit.get k : Int) else -(s.cfg.posUnit.get k : Int)))

/-- The block never halts: every run of a well-formed configuration goes on, and no step changes the
configuration (R32, R243, R253). -/
def Obligations.BlockNeverHalts : Prop :=
  ∀ (n : Nat) (s : State), configOk s.cfg = true → ∃ t, Sys2Proof.core.run n s = .next t ∧ t.cfg = s.cfg

/-- A configuration with some POS_UNIT 0 or W_POS below 16 is refused, and only such a one (R3). -/
def Obligations.IllFormedConfigurationIsRefused : Prop :=
  ∀ s : State, step s = .refused .illFormedConfig ↔ ¬((∀ k, 1 ≤ s.cfg.posUnit.get k) ∧ 16 ≤ s.cfg.wPos)

/-- An Engine iteration never writes the configuration, an EncoderCounter or an encoder input, and takes no other agent's
turn (R32, R38, R104); and phases 3 and 4 write neither the status LED, `all_calibrated`, a pump level nor the receive
queue, which stay as the command phase left them (R36, R41, R43, R44, R140). -/
def Obligations.EngineKeepsCounters : Prop :=
  ∀ (s u : State) (r : List Turn), CommandPhase s r u →
    ∃ t, step s = .next t ∧
      t.cfg = s.cfg ∧ t.enc = s.enc ∧ t.encA = s.encA ∧ t.encB = s.encB ∧ t.turns = r ∧
      t.statusLed = u.statusLed ∧ t.allCalibrated = u.allCalibrated ∧
      t.pump1On = u.pump1On ∧ t.pump2On = u.pump2On ∧ t.rx = u.rx

/-- The streams the block writes only grow under an Engine iteration, and the trace under every step; what the
Engine adds to `tx` is whole replies `E010` and `A{k}00` (R42, R51, R186). -/
def Obligations.OutputsOnlyGrow : Prop :=
  (∀ s t : State, step s = .next t → ∃ es, t.trace = s.trace ++ es) ∧
  (∀ (s u t : State) (r : List Turn), CommandPhase s r u → step s = .next t →
    ∃ replies : List (List Byte), t.tx = s.tx ++ replies.flatten ∧
      ∀ b ∈ replies, b = errorBytes ∨ ∃ k, b = doneBytes k)

/-- period_ticks, PERIOD_DECODE, T_HIGH and T_LOW are timing only: erasing them does not change what a step does
to anything else (R29, R147, R279). -/
def Obligations.TimingReachesOnlyTheTrace : Prop :=
  ∀ s t : State, step s = .next t → ∃ t', step (hideTiming s) = .next t' ∧ hideTiming t' = hideTiming t

/-- target_position, microstep_divisor and error_threshold are read by no rule: erasing them does not change what a
step does to anything else (R22, R30, R31). -/
def Obligations.UnreadRegistersReachNothing : Prop :=
  ∀ s t : State, step s = .next t → ∃ t', step (hideUnread s) = .next t' ∧ hideUnread t' = hideUnread t

/-! ### Trackers, environment and interleaving -/

/-- A Tracker's turn: an edge of channel A is forward when the levels differ, one of channel B when they are equal;
the counter moves by ENC_INC forward or back and wraps, a wrap sets the overflow mark, and nothing else changes but
the turn it took (R100, R102, R104). The direction is R101, which the spec derives from its source. -/
def Obligations.TrackerTurn : Prop :=
  ∀ (s : State) (k : Axis) (c : Channel) (r : List Turn) (v : Int), configOk s.cfg = true →
    s.turns = .other (.trackerEdge k c) :: r →
    v = s.enc.get k +
      (if (c = .chA ∧ s.encA.get k ≠ s.encB.get k) ∨ (c = .chB ∧ s.encA.get k = s.encB.get k)
        then (s.cfg.encInc : Int) else -(s.cfg.encInc : Int)) →
    ∃ t, step s = .next t ∧
      t = { s with enc := s.enc.set k (t.enc.get k), posOverflow := t.posOverflow, turns := r } ∧
      InSigned s.cfg.wPos (t.enc.get k) ∧ (2 ^ s.cfg.wPos : Int) ∣ v - t.enc.get k ∧
      (t.posOverflow = true ↔ s.posOverflow = true ∨ ¬InSigned s.cfg.wPos v)

/-- A full forward cycle adds 4 * ENC_INC, the reversed cycle subtracts it, and an edge with its reverse adds 0,
all modulo the counter's width (R105, which the spec derives from R101 and R102). -/
def Obligations.QuadratureCycles : Prop :=
  ∀ (s : State) (k : Axis),
    (trackerEdge k .chB false false (trackerEdge k .chA false true (trackerEdge k .chB true true
        (trackerEdge k .chA true false s)))).enc.get k = wrapS s.cfg.wPos (s.enc.get k + 4 * (s.cfg.encInc : Int)) ∧
    (trackerEdge k .chA false false (trackerEdge k .chB true false (trackerEdge k .chA true true
        (trackerEdge k .chB false true s)))).enc.get k = wrapS s.cfg.wPos (s.enc.get k - 4 * (s.cfg.encInc : Int)) ∧
    (trackerEdge k .chA false false (trackerEdge k .chA true false s)).enc.get k = wrapS s.cfg.wPos (s.enc.get k)

/-- Edge handlers of different axes commute, so the order among them does not matter (R246). -/
def Obligations.TrackersOfDifferentAxesCommute : Prop :=
  ∀ (s : State) (j k : Axis) (c d : Channel) (a b x y : Bool), j ≠ k →
    trackerEdge j c a b (trackerEdge k d x y s) = trackerEdge k d x y (trackerEdge j c a b s)

/-- An edge handler commutes with every command: no frame reads or writes a counter (R38, R66). -/
def Obligations.TrackerCommutesWithCommands : Prop :=
  ∀ (i : Instr) (s t : State) (k : Axis) (c : Channel) (a b : Bool), exec i s = .next t →
    exec i (trackerEdge k c a b s) = .next (trackerEdge k c a b t)

/-- The reduction of R66: an edge of axis `k` placed before an iteration that takes no snapshot of axis `k` gives the
same state as the edge placed after it. That the interleaving stands as a list of turns in State is the model's choice
(log entry 1). -/
def Obligations.TrackerCommutesWithIteration : Prop :=
  ∀ (s u : State) (r : List Turn) (k : Axis) (c : Channel),
    CommandPhase { s with turns := .engine :: r } r u → completesPass u k = false →
    ∃ t, Sys2Proof.core.run 2 { s with turns := .engine :: .other (.trackerEdge k c) :: r } = .next t ∧
      Sys2Proof.core.run 2 { s with turns := .other (.trackerEdge k c) :: .engine :: r } = .next t

/-- The moves of the environment: encoder levels, a host byte appended to `rx`, bytes taken from the head of `tx`
(R40, R254). That the two levels of an axis are set in one move and several bytes are taken in one move is the
model's choice (log entry 13). -/
def Obligations.EnvironmentTurns : Prop :=
  ∀ (s : State) (r : List Turn), configOk s.cfg = true →
    (∀ k a b, s.turns = .other (.encoderLevels k a b) :: r →
      step s = .next { s with encA := s.encA.set k a, encB := s.encB.set k b, turns := r }) ∧
    (∀ b, s.turns = .other (.hostSend b) :: r → step s = .next { s with rx := s.rx ++ [b], turns := r }) ∧
    (∀ n, s.turns = .other (.hostRead n) :: r → step s = .next { s with tx := s.tx.drop n, turns := r })

/-- The power-on values of a block with configuration `c`, field by field as R50 lists them, and the machine after reset
is at power-on (R270). -/
def Obligations.PowerOnValues : Prop :=
  (∀ c : Params,
    (∀ k, axisRec (powerOn c) k =
      { calibrated := false, targetPosition := 0, expectedPosition := 0, encoderPosition := 0, stepsRemaining := 0,
        direction := false, correcting := false, running := false, periodTicks := c.periodInit.get k,
        microstepDivisor := c.microstepInit.get k, errorThreshold := c.errThrInit.get k }) ∧
    (powerOn c).allCalibrated = false ∧ (powerOn c).posOverflow = false ∧
    (∀ k, (powerOn c).enc.get k = 0 ∧ (powerOn c).stepPin.get k = false ∧ (powerOn c).dirPin.get k = false) ∧
    (powerOn c).rx = [] ∧ (powerOn c).tx = [] ∧ (powerOn c).pump1On = false ∧ (powerOn c).pump2On = false ∧
    (powerOn c).statusLed = c.colorUncal ∧ (powerOn c).cfg = c) ∧
  State.reset = powerOn State.reset.cfg

/-! ### The commands -/

/-- Stop (R181): decoded from 0x53 whatever its parameter bytes; every axis drops its steps and correction; each
running axis stops and replies `A{k}00`, in ascending order; nothing else changes. -/
def Obligations.StopResult : Prop :=
  ∀ (p1 p2 p3 : Byte) (s : State), decodeFrame 0x53#8 p1 p2 p3 = .stop p1 p2 p3 ∧
    ∃ t, exec (.stop p1 p2 p3) s = .next t ∧
      (∀ k, axisRec t k =
        { axisRec s k with stepsRemaining := 0, correcting := false, running := false }) ∧
      t.tx = s.tx ++ (Axis.all.filter fun k => (axisRec s k).running).flatMap doneBytes ∧
      t.trace = s.trace ++ (Axis.all.filter fun k => (axisRec s k).running).map doneEvent ∧
      t = { s with axes := t.axes, tx := t.tx, trace := t.trace }

/-- The iteration that consumes a Stop makes no pulse and leaves every axis Idle; its replies are one per axis that
was running (R157, R181, R272). -/
def Obligations.StopIterationMakesNoPulse : Prop :=
  ∀ (s : State) (r : List Turn) (p1 p2 p3 : Byte), configOk s.cfg = true → EngineNext s r →
    s.rx = [0x53#8, p1, p2, p3] →
    ∃ t, step s = .next t ∧ (∀ k, motionState (axisRec t k) = some .idle) ∧
      (∀ k, pulseDelays k (t.trace.drop s.trace.length) = []) ∧
      t.tx = s.tx ++ (Axis.all.filter fun k => (axisRec s k).running).flatMap doneBytes

/-- Calibrate (R182): with a selector in range it sets `calibrated` and zeroes the open-loop estimate of its axis; when
all five are then calibrated it sets `all_calibrated` and sends COLOR_CAL; p2 and p3 are ignored; nothing else
changes, the EncoderCounter in particular (R106). A selector out of range gives `E010` and nothing else. -/
def Obligations.CalibrateResult : Prop :=
  ∀ (s : State) (sel p2 p3 : Byte) (k : Axis),
    decodeFrame 0x43#8 sel p2 p3 = .cal sel p2 p3 ∧
    (Selects s.cfg sel k →
      ((∀ j, j ≠ k → (axisRec s j).calibrated = true) →
        exec (.cal sel p2 p3) s = .next { s with
          axes := s.axes.set k { axisRec s k with calibrated := true, expectedPosition := 0 }
          allCalibrated := true
          statusLed := s.cfg.colorCal
          trace := s.trace ++ [.statusLed s.cfg.colorCal] }) ∧
      ((∃ j, j ≠ k ∧ (axisRec s j).calibrated = false) →
        exec (.cal sel p2 p3) s = .next { s with
          axes := s.axes.set k { axisRec s k with calibrated := true, expectedPosition := 0 } })) ∧
    (SelectsNone s.cfg sel → exec (.cal sel p2 p3) s = .next (withErrorReply s))

/-- Move (R183): with a selector in range it writes direction, steps, running and correcting of its axis, whatever that
was doing; nothing else changes and no reply is written. A selector out of range gives `E010` and nothing else. -/
def Obligations.MoveResult : Prop :=
  ∀ (s : State) (sel p2 p3 : Byte) (k : Axis),
    ∃ dir count, decodeFrame 0x4D#8 sel p2 p3 = .move sel dir count ∧
      (Selects s.cfg sel k →
        exec (.move sel dir count) s = .next { s with
          axes := s.axes.set k { axisRec s k with
            direction := decide (128 ≤ p2.toNat)
            stepsRemaining := (p2.toNat % 128) * 256 + p3.toNat
            running := true
            correcting := false } }) ∧
      (SelectsNone s.cfg sel → exec (.move sel dir count) s = .next (withErrorReply s))

/-- A Move of count 0 makes no pulse and completes in the iteration that consumed it: it finishes with a reply when
the error is below one unit, else it starts a correction pass (R149, R183). -/
def Obligations.MoveOfZeroCompletesAtOnce : Prop :=
  ∀ (s : State) (r : List Turn) (sel p2 : Byte) (k : Axis), configOk s.cfg = true → EngineNext s r →
    s.rx = [0x4D#8, sel, p2, 0x00#8] → p2.toNat % 128 = 0 → Selects s.cfg sel k →
    ∃ t, step s = .next t ∧ pulseDelays k (t.trace.drop s.trace.length) = [] ∧
      (axisRec t k).encoderPosition = s.enc.get k ∧
      (axisRec t k).expectedPosition = (axisRec s k).expectedPosition ∧
      (((axisRec s k).expectedPosition - s.enc.get k).natAbs < s.cfg.posUnit.get k →
        motionState (axisRec t k) = some .idle ∧ doneEvent k ∈ t.trace.drop s.trace.length) ∧
      (s.cfg.posUnit.get k ≤ ((axisRec s k).expectedPosition - s.enc.get k).natAbs →
        motionState (axisRec t k) = some .correcting ∧
        (axisRec t k).stepsRemaining =
          ((axisRec s k).expectedPosition - s.enc.get k).natAbs / s.cfg.posUnit.get k ∧
        ((axisRec t k).direction = true ↔ s.enc.get k < (axisRec s k).expectedPosition))

/-- SetPeriod (R84, R184): with a selector in range period_ticks of its axis gets PERIOD_DECODE, `p2 * 256 + p3` by
default; nothing else changes. A selector out of range gives `E010` and nothing else. -/
def Obligations.SetPeriodResult : Prop :=
  ∀ (s : State) (p1 p2 p3 : Byte) (k : Axis),
    decodeFrame 0x44#8 p1 p2 p3 = .setp p1 p2 p3 ∧
    (Selects s.cfg p1 k →
      exec (.setp p1 p2 p3) s = .next { s with
        axes := s.axes.set k { axisRec s k with periodTicks := periodDecode s.cfg p1 p2 p3 } }) ∧
    (SelectsNone s.cfg p1 → exec (.setp p1 p2 p3) s = .next (withErrorReply s)) ∧
    (s.cfg.periodTable = [] → (periodDecode s.cfg p1 p2 p3).toNat = p2.toNat * 256 + p3.toNat)

/-- Reset (R185): eight fields of every axis and `all_calibrated` are cleared, the ring is reset and the status LED
gets COLOR_UNCAL; no reply; nothing else changes, whatever the parameter bytes. -/
def Obligations.ResetResult : Prop :=
  ∀ (p1 p2 p3 : Byte) (s : State), decodeFrame 0x52#8 p1 p2 p3 = .reset p1 p2 p3 ∧
    ∃ t, exec (.reset p1 p2 p3) s = .next t ∧
      (∀ k, axisRec t k =
        { axisRec s k with
          calibrated := false, targetPosition := 0, expectedPosition := 0, encoderPosition := 0,
          stepsRemaining := 0, direction := false, correcting := false, running := false }) ∧
      t = { s with
        axes := t.axes
        allCalibrated := false
        statusLed := s.cfg.colorUncal
        trace := s.trace ++ [.ringReset, .statusLed s.cfg.colorUncal] }

/-- Pump with a request decoded (R220): enabling a channel switches the other off first; disabling one touches only
it; the default decode. -/
def Obligations.PumpResult : Prop :=
  ∀ (s : State) (p1 p2 p3 : Byte),
    decodeFrame 0x50#8 p1 p2 p3 = .pump p1 p2 p3 ∧
    (pumpDecode s.cfg p1 p2 p3 = some { channel := .pump1, on := true } →
      exec (.pump p1 p2 p3) s = .next { s with
        pump1On := true, pump2On := false
        trace := s.trace ++ [.pumpSet .pump2 false, .pumpSet .pump1 true] }) ∧
    (pumpDecode s.cfg p1 p2 p3 = some { channel := .pump2, on := true } →
      exec (.pump p1 p2 p3) s = .next { s with
        pump1On := false, pump2On := true
        trace := s.trace ++ [.pumpSet .pump1 false, .pumpSet .pump2 true] }) ∧
    (pumpDecode s.cfg p1 p2 p3 = some { channel := .pump1, on := false } →
      exec (.pump p1 p2 p3) s = .next { s with
        pump1On := false, trace := s.trace ++ [.pumpSet .pump1 false] }) ∧
    (pumpDecode s.cfg p1 p2 p3 = some { channel := .pump2, on := false } →
      exec (.pump p1 p2 p3) s = .next { s with
        pump2On := false, trace := s.trace ++ [.pumpSet .pump2 false] }) ∧
    (pumpDecode s.cfg p1 p2 p3 = none → exec (.pump p1 p2 p3) s = .next (withErrorReply s)) ∧
    (s.cfg.pumpTable = [] →
      (p1.toNat = 1 → pumpDecode s.cfg p1 p2 p3 = some { channel := .pump1, on := decide (p2.toNat ≠ 0) }) ∧
      (p1.toNat = 2 → pumpDecode s.cfg p1 p2 p3 = some { channel := .pump2, on := decide (p2.toNat ≠ 0) }) ∧
      (p1.toNat ≠ 1 → p1.toNat ≠ 2 → pumpDecode s.cfg p1 p2 p3 = none))

/-- Light (R221): for each value of the OPEN LIGHT_DECODE its events and the status LED; nothing else changes. -/
def Obligations.LightResult : Prop :=
  ∀ (s : State) (p1 p2 p3 : Byte),
    decodeFrame 0x4C#8 p1 p2 p3 = .light p1 p2 p3 ∧
    (∀ st col, lightDecode s.cfg p1 p2 p3 = some (.status st false) →
      col = (match st with
        | .clearUncalibrated => s.cfg.colorUncal
        | .clearCalibrated => s.cfg.colorCal
        | .done => s.cfg.colorDone) →
      exec (.light p1 p2 p3) s = .next { s with statusLed := col, trace := s.trace ++ [.statusLed col] }) ∧
    (∀ st col, lightDecode s.cfg p1 p2 p3 = some (.status st true) →
      col = (match st with
        | .clearUncalibrated => s.cfg.colorUncal
        | .clearCalibrated => s.cfg.colorCal
        | .done => s.cfg.colorDone) →
      exec (.light p1 p2 p3) s = .next { s with
        statusLed := col, trace := s.trace ++ [.ringReset, .statusLed col] }) ∧
    (∀ index r g b nb, lightDecode s.cfg p1 p2 p3 = some (.pixel index r g b nb) →
      exec (.light p1 p2 p3) s = .next { s with
        trace := s.trace ++ [.ringPixel index r g b, .ringPush nb] }) ∧
    (lightDecode s.cfg p1 p2 p3 = none → exec (.light p1 p2 p3) s = .next (withErrorReply s))

/-- Invalid (R87, R222): each of the other 249 opcode bytes gives an Invalid frame, whose whole effect is the reply
`E010`; within Calibrate, Move and SetPeriod a selector out of range has that same effect. -/
def Obligations.InvalidFrameResult : Prop :=
  ((List.range 256).filter fun n => !opcodeBytes.contains (BitVec.ofNat 8 n)).length = 249 ∧
  (∀ b1 p1 p2 p3 : Byte, b1 ∉ opcodeBytes → decodeFrame b1 p1 p2 p3 = .invalid b1 p1 p2 p3) ∧
  (∀ (b1 p1 p2 p3 : Byte) (s : State), exec (.invalid b1 p1 p2 p3) s = .next { s with
    tx := s.tx ++ [0x45#8, 0x30#8, 0x31#8, 0x30#8]
    trace := s.trace ++ [.txWrite 0x45#8 0x30#8 0x31#8 0x30#8] }) ∧
  (∀ (s : State) (sel p2 p3 : Byte) (dir : Bool) (count : BitVec 15), SelectsNone s.cfg sel →
    exec (.cal sel p2 p3) s = .next (withErrorReply s) ∧ exec (.move sel dir count) s = .next (withErrorReply s) ∧
      exec (.setp sel p2 p3) s = .next (withErrorReply s))

/-- The axis selector (R83, R180): the axis of selector byte `sel` is `sel - AXIS_SEL_BASE` when that is in 1..5,
and there is none otherwise; with no axis the command writes `E010` and does nothing else. -/
def Obligations.AxisSelectorDecodes : Prop :=
  (∀ (c : Params) (sel : Byte) (k : Axis),
    axisOf c sel = some k ↔ (sel.toNat : Int) - (c.axisSelBase.toNat : Int) = (k.num : Int)) ∧
  (∀ (c : Params) (sel : Byte), axisOf c sel = none ↔
    ¬(1 ≤ (sel.toNat : Int) - (c.axisSelBase.toNat : Int) ∧ (sel.toNat : Int) - (c.axisSelBase.toNat : Int) ≤ 5)) ∧
  (∀ (s : State) (sel p2 p3 : Byte) (dir : Bool) (count : BitVec 15), axisOf s.cfg sel = none →
    exec (.cal sel p2 p3) s = .next (withErrorReply s) ∧ exec (.move sel dir count) s = .next (withErrorReply s) ∧
      exec (.setp sel p2 p3) s = .next (withErrorReply s))

/-- The error taxonomy (R240): a frame writes `E010` exactly in the listed cases, and then that is its whole
effect. -/
def Obligations.ErrorTaxonomy : Prop :=
  ∀ (i : Instr) (s : State),
    (RaisesError s.cfg i → exec i s = .next (withErrorReply s)) ∧
    (¬RaisesError s.cfg i → ∃ t es, exec i s = .next t ∧ t.trace = s.trace ++ es ∧ errorEvent ∉ es)

/-- ProtocolError is precise and the Engine goes on: the iteration that consumes such a frame runs phases 3 and 4 on
the polled state with only `E010` added (R241, which the spec derives from R180 to R184 and R220 to R222). The poll's
calls stand in the trace as R251 says; R51 does not list them (log entry 17). -/
def Obligations.ProtocolErrorIsPrecise : Prop :=
  ∀ (s : State) (r : List Turn) (i : Instr), configOk s.cfg = true → EngineNext s r →
    decode s.rx = .ok (i, []) → RaisesError s.cfg i →
    step s = .next (motionPhases (withErrorReply (consumedState s r)))

/-- The frame of the commands: no frame changes the configuration, an EncoderCounter, an encoder input, the overflow
mark, an output pin, a queue byte already there or the turns; Pump and Light also no axis record and not
`all_calibrated`; the motor commands no pump (R37, R38, R48, R224). -/
def Obligations.CommandFrames : Prop :=
  ∀ (i : Instr) (s : State), ∃ t, exec i s = .next t ∧
    t.cfg = s.cfg ∧ t.enc = s.enc ∧ t.encA = s.encA ∧ t.encB = s.encB ∧ t.posOverflow = s.posOverflow ∧
    t.stepPin = s.stepPin ∧ t.dirPin = s.dirPin ∧ t.rx = s.rx ∧ t.turns = s.turns ∧
    (∃ bs, t.tx = s.tx ++ bs) ∧ (∃ es, t.trace = s.trace ++ es) ∧
    ((∃ x y z, i = .pump x y z) ∨ (∃ x y z, i = .light x y z) →
      t.axes = s.axes ∧ t.allCalibrated = s.allCalibrated) ∧
    ((¬∃ x y z, i = .pump x y z) → t.pump1On = s.pump1On ∧ t.pump2On = s.pump2On)
end

