-- ==== Sys2Proof/Laws/State.lean ====
section
/-!
SUPPORT. What each primitive of Machine/Ops.lean leaves in each field of the state: one lemma per field per
update, so that no proof unfolds a record update.
-/

namespace Sys2Proof.Machine

variable (s : State)

@[simp] theorem setAxisRec_cfg (k : Axis) (m : MotorAxis) : (setAxisRec k m s).cfg = s.cfg := rfl
@[simp] theorem setAxisRec_axes (k : Axis) (m : MotorAxis) : (setAxisRec k m s).axes = s.axes.set k m := rfl
@[simp] theorem setAxisRec_allCalibrated (k : Axis) (m : MotorAxis) : (setAxisRec k m s).allCalibrated = s.allCalibrated := rfl
@[simp] theorem setAxisRec_posOverflow (k : Axis) (m : MotorAxis) : (setAxisRec k m s).posOverflow = s.posOverflow := rfl
@[simp] theorem setAxisRec_enc (k : Axis) (m : MotorAxis) : (setAxisRec k m s).enc = s.enc := rfl
@[simp] theorem setAxisRec_stepPin (k : Axis) (m : MotorAxis) : (setAxisRec k m s).stepPin = s.stepPin := rfl
@[simp] theorem setAxisRec_dirPin (k : Axis) (m : MotorAxis) : (setAxisRec k m s).dirPin = s.dirPin := rfl
@[simp] theorem setAxisRec_encA (k : Axis) (m : MotorAxis) : (setAxisRec k m s).encA = s.encA := rfl
@[simp] theorem setAxisRec_encB (k : Axis) (m : MotorAxis) : (setAxisRec k m s).encB = s.encB := rfl
@[simp] theorem setAxisRec_rx (k : Axis) (m : MotorAxis) : (setAxisRec k m s).rx = s.rx := rfl
@[simp] theorem setAxisRec_tx (k : Axis) (m : MotorAxis) : (setAxisRec k m s).tx = s.tx := rfl
@[simp] theorem setAxisRec_pump1On (k : Axis) (m : MotorAxis) : (setAxisRec k m s).pump1On = s.pump1On := rfl
@[simp] theorem setAxisRec_pump2On (k : Axis) (m : MotorAxis) : (setAxisRec k m s).pump2On = s.pump2On := rfl
@[simp] theorem setAxisRec_statusLed (k : Axis) (m : MotorAxis) : (setAxisRec k m s).statusLed = s.statusLed := rfl
@[simp] theorem setAxisRec_trace (k : Axis) (m : MotorAxis) : (setAxisRec k m s).trace = s.trace := rfl
@[simp] theorem setAxisRec_turns (k : Axis) (m : MotorAxis) : (setAxisRec k m s).turns = s.turns := rfl

@[simp] theorem setEnc_cfg (k : Axis) (v : Int) : (setEnc k v s).cfg = s.cfg := rfl
@[simp] theorem setEnc_axes (k : Axis) (v : Int) : (setEnc k v s).axes = s.axes := rfl
@[simp] theorem setEnc_allCalibrated (k : Axis) (v : Int) : (setEnc k v s).allCalibrated = s.allCalibrated := rfl
@[simp] theorem setEnc_posOverflow (k : Axis) (v : Int) : (setEnc k v s).posOverflow = s.posOverflow := rfl
@[simp] theorem setEnc_enc (k : Axis) (v : Int) : (setEnc k v s).enc = s.enc.set k v := rfl
@[simp] theorem setEnc_stepPin (k : Axis) (v : Int) : (setEnc k v s).stepPin = s.stepPin := rfl
@[simp] theorem setEnc_dirPin (k : Axis) (v : Int) : (setEnc k v s).dirPin = s.dirPin := rfl
@[simp] theorem setEnc_encA (k : Axis) (v : Int) : (setEnc k v s).encA = s.encA := rfl
@[simp] theorem setEnc_encB (k : Axis) (v : Int) : (setEnc k v s).encB = s.encB := rfl
@[simp] theorem setEnc_rx (k : Axis) (v : Int) : (setEnc k v s).rx = s.rx := rfl
@[simp] theorem setEnc_tx (k : Axis) (v : Int) : (setEnc k v s).tx = s.tx := rfl
@[simp] theorem setEnc_pump1On (k : Axis) (v : Int) : (setEnc k v s).pump1On = s.pump1On := rfl
@[simp] theorem setEnc_pump2On (k : Axis) (v : Int) : (setEnc k v s).pump2On = s.pump2On := rfl
@[simp] theorem setEnc_statusLed (k : Axis) (v : Int) : (setEnc k v s).statusLed = s.statusLed := rfl
@[simp] theorem setEnc_trace (k : Axis) (v : Int) : (setEnc k v s).trace = s.trace := rfl
@[simp] theorem setEnc_turns (k : Axis) (v : Int) : (setEnc k v s).turns = s.turns := rfl

@[simp] theorem markOverflow_cfg (v : Int) : (markOverflow v s).cfg = s.cfg := rfl
@[simp] theorem markOverflow_axes (v : Int) : (markOverflow v s).axes = s.axes := rfl
@[simp] theorem markOverflow_allCalibrated (v : Int) : (markOverflow v s).allCalibrated = s.allCalibrated := rfl
@[simp] theorem markOverflow_posOverflow (v : Int) : (markOverflow v s).posOverflow = overflowAfter s.cfg.wPos v s.posOverflow := rfl
@[simp] theorem markOverflow_enc (v : Int) : (markOverflow v s).enc = s.enc := rfl
@[simp] theorem markOverflow_stepPin (v : Int) : (markOverflow v s).stepPin = s.stepPin := rfl
@[simp] theorem markOverflow_dirPin (v : Int) : (markOverflow v s).dirPin = s.dirPin := rfl
@[simp] theorem markOverflow_encA (v : Int) : (markOverflow v s).encA = s.encA := rfl
@[simp] theorem markOverflow_encB (v : Int) : (markOverflow v s).encB = s.encB := rfl
@[simp] theorem markOverflow_rx (v : Int) : (markOverflow v s).rx = s.rx := rfl
@[simp] theorem markOverflow_tx (v : Int) : (markOverflow v s).tx = s.tx := rfl
@[simp] theorem markOverflow_pump1On (v : Int) : (markOverflow v s).pump1On = s.pump1On := rfl
@[simp] theorem markOverflow_pump2On (v : Int) : (markOverflow v s).pump2On = s.pump2On := rfl
@[simp] theorem markOverflow_statusLed (v : Int) : (markOverflow v s).statusLed = s.statusLed := rfl
@[simp] theorem markOverflow_trace (v : Int) : (markOverflow v s).trace = s.trace := rfl
@[simp] theorem markOverflow_turns (v : Int) : (markOverflow v s).turns = s.turns := rfl

@[simp] theorem emit_cfg (e : Event) : (emit e s).cfg = s.cfg := rfl
@[simp] theorem emit_axes (e : Event) : (emit e s).axes = s.axes := rfl
@[simp] theorem emit_allCalibrated (e : Event) : (emit e s).allCalibrated = s.allCalibrated := rfl
@[simp] theorem emit_posOverflow (e : Event) : (emit e s).posOverflow = s.posOverflow := rfl
@[simp] theorem emit_enc (e : Event) : (emit e s).enc = s.enc := rfl
@[simp] theorem emit_stepPin (e : Event) : (emit e s).stepPin = s.stepPin := rfl
@[simp] theorem emit_dirPin (e : Event) : (emit e s).dirPin = s.dirPin := rfl
@[simp] theorem emit_encA (e : Event) : (emit e s).encA = s.encA := rfl
@[simp] theorem emit_encB (e : Event) : (emit e s).encB = s.encB := rfl
@[simp] theorem emit_rx (e : Event) : (emit e s).rx = s.rx := rfl
@[simp] theorem emit_tx (e : Event) : (emit e s).tx = s.tx := rfl
@[simp] theorem emit_pump1On (e : Event) : (emit e s).pump1On = s.pump1On := rfl
@[simp] theorem emit_pump2On (e : Event) : (emit e s).pump2On = s.pump2On := rfl
@[simp] theorem emit_statusLed (e : Event) : (emit e s).statusLed = s.statusLed := rfl
@[simp] theorem emit_trace (e : Event) : (emit e s).trace = s.trace ++ [e] := rfl
@[simp] theorem emit_turns (e : Event) : (emit e s).turns = s.turns := rfl

@[simp] theorem txWrite_cfg (b0 b1 b2 b3 : Byte) : (txWrite b0 b1 b2 b3 s).cfg = s.cfg := rfl
@[simp] theorem txWrite_axes (b0 b1 b2 b3 : Byte) : (txWrite b0 b1 b2 b3 s).axes = s.axes := rfl
@[simp] theorem txWrite_allCalibrated (b0 b1 b2 b3 : Byte) : (txWrite b0 b1 b2 b3 s).allCalibrated = s.allCalibrated := rfl
@[simp] theorem txWrite_posOverflow (b0 b1 b2 b3 : Byte) : (txWrite b0 b1 b2 b3 s).posOverflow = s.posOverflow := rfl
@[simp] theorem txWrite_enc (b0 b1 b2 b3 : Byte) : (txWrite b0 b1 b2 b3 s).enc = s.enc := rfl
@[simp] theorem txWrite_stepPin (b0 b1 b2 b3 : Byte) : (txWrite b0 b1 b2 b3 s).stepPin = s.stepPin := rfl
@[simp] theorem txWrite_dirPin (b0 b1 b2 b3 : Byte) : (txWrite b0 b1 b2 b3 s).dirPin = s.dirPin := rfl
@[simp] theorem txWrite_encA (b0 b1 b2 b3 : Byte) : (txWrite b0 b1 b2 b3 s).encA = s.encA := rfl
@[simp] theorem txWrite_encB (b0 b1 b2 b3 : Byte) : (txWrite b0 b1 b2 b3 s).encB = s.encB := rfl
@[simp] theorem txWrite_rx (b0 b1 b2 b3 : Byte) : (txWrite b0 b1 b2 b3 s).rx = s.rx := rfl
@[simp] theorem txWrite_tx (b0 b1 b2 b3 : Byte) : (txWrite b0 b1 b2 b3 s).tx = s.tx ++ [b0, b1, b2, b3] := rfl
@[simp] theorem txWrite_pump1On (b0 b1 b2 b3 : Byte) : (txWrite b0 b1 b2 b3 s).pump1On = s.pump1On := rfl
@[simp] theorem txWrite_pump2On (b0 b1 b2 b3 : Byte) : (txWrite b0 b1 b2 b3 s).pump2On = s.pump2On := rfl
@[simp] theorem txWrite_statusLed (b0 b1 b2 b3 : Byte) : (txWrite b0 b1 b2 b3 s).statusLed = s.statusLed := rfl
@[simp] theorem txWrite_trace (b0 b1 b2 b3 : Byte) : (txWrite b0 b1 b2 b3 s).trace = s.trace ++ [.txWrite b0 b1 b2 b3] := rfl
@[simp] theorem txWrite_turns (b0 b1 b2 b3 : Byte) : (txWrite b0 b1 b2 b3 s).turns = s.turns := rfl

@[simp] theorem setPin_step_cfg (k : Axis) (l : Bool) : (setPin .step k l s).cfg = s.cfg := rfl
@[simp] theorem setPin_step_axes (k : Axis) (l : Bool) : (setPin .step k l s).axes = s.axes := rfl
@[simp] theorem setPin_step_allCalibrated (k : Axis) (l : Bool) : (setPin .step k l s).allCalibrated = s.allCalibrated := rfl
@[simp] theorem setPin_step_posOverflow (k : Axis) (l : Bool) : (setPin .step k l s).posOverflow = s.posOverflow := rfl
@[simp] theorem setPin_step_enc (k : Axis) (l : Bool) : (setPin .step k l s).enc = s.enc := rfl
@[simp] theorem setPin_step_stepPin (k : Axis) (l : Bool) : (setPin .step k l s).stepPin = s.stepPin.set k l := rfl
@[simp] theorem setPin_step_dirPin (k : Axis) (l : Bool) : (setPin .step k l s).dirPin = s.dirPin := rfl
@[simp] theorem setPin_step_encA (k : Axis) (l : Bool) : (setPin .step k l s).encA = s.encA := rfl
@[simp] theorem setPin_step_encB (k : Axis) (l : Bool) : (setPin .step k l s).encB = s.encB := rfl
@[simp] theorem setPin_step_rx (k : Axis) (l : Bool) : (setPin .step k l s).rx = s.rx := rfl
@[simp] theorem setPin_step_tx (k : Axis) (l : Bool) : (setPin .step k l s).tx = s.tx := rfl
@[simp] theorem setPin_step_pump1On (k : Axis) (l : Bool) : (setPin .step k l s).pump1On = s.pump1On := rfl
@[simp] theorem setPin_step_pump2On (k : Axis) (l : Bool) : (setPin .step k l s).pump2On = s.pump2On := rfl
@[simp] theorem setPin_step_statusLed (k : Axis) (l : Bool) : (setPin .step k l s).statusLed = s.statusLed := rfl
@[simp] theorem setPin_step_trace (k : Axis) (l : Bool) : (setPin .step k l s).trace = s.trace ++ [.pinSet .step k l] := rfl
@[simp] theorem setPin_step_turns (k : Axis) (l : Bool) : (setPin .step k l s).turns = s.turns := rfl

@[simp] theorem setPin_dir_cfg (k : Axis) (l : Bool) : (setPin .dir k l s).cfg = s.cfg := rfl
@[simp] theorem setPin_dir_axes (k : Axis) (l : Bool) : (setPin .dir k l s).axes = s.axes := rfl
@[simp] theorem setPin_dir_allCalibrated (k : Axis) (l : Bool) : (setPin .dir k l s).allCalibrated = s.allCalibrated := rfl
@[simp] theorem setPin_dir_posOverflow (k : Axis) (l : Bool) : (setPin .dir k l s).posOverflow = s.posOverflow := rfl
@[simp] theorem setPin_dir_enc (k : Axis) (l : Bool) : (setPin .dir k l s).enc = s.enc := rfl
@[simp] theorem setPin_dir_stepPin (k : Axis) (l : Bool) : (setPin .dir k l s).stepPin = s.stepPin := rfl
@[simp] theorem setPin_dir_dirPin (k : Axis) (l : Bool) : (setPin .dir k l s).dirPin = s.dirPin.set k l := rfl
@[simp] theorem setPin_dir_encA (k : Axis) (l : Bool) : (setPin .dir k l s).encA = s.encA := rfl
@[simp] theorem setPin_dir_encB (k : Axis) (l : Bool) : (setPin .dir k l s).encB = s.encB := rfl
@[simp] theorem setPin_dir_rx (k : Axis) (l : Bool) : (setPin .dir k l s).rx = s.rx := rfl
@[simp] theorem setPin_dir_tx (k : Axis) (l : Bool) : (setPin .dir k l s).tx = s.tx := rfl
@[simp] theorem setPin_dir_pump1On (k : Axis) (l : Bool) : (setPin .dir k l s).pump1On = s.pump1On := rfl
@[simp] theorem setPin_dir_pump2On (k : Axis) (l : Bool) : (setPin .dir k l s).pump2On = s.pump2On := rfl
@[simp] theorem setPin_dir_statusLed (k : Axis) (l : Bool) : (setPin .dir k l s).statusLed = s.statusLed := rfl
@[simp] theorem setPin_dir_trace (k : Axis) (l : Bool) : (setPin .dir k l s).trace = s.trace ++ [.pinSet .dir k l] := rfl
@[simp] theorem setPin_dir_turns (k : Axis) (l : Bool) : (setPin .dir k l s).turns = s.turns := rfl

@[simp] theorem rxCountCall_cfg : (rxCountCall s).cfg = s.cfg := rfl
@[simp] theorem rxCountCall_axes : (rxCountCall s).axes = s.axes := rfl
@[simp] theorem rxCountCall_allCalibrated : (rxCountCall s).allCalibrated = s.allCalibrated := rfl
@[simp] theorem rxCountCall_posOverflow : (rxCountCall s).posOverflow = s.posOverflow := rfl
@[simp] theorem rxCountCall_enc : (rxCountCall s).enc = s.enc := rfl
@[simp] theorem rxCountCall_stepPin : (rxCountCall s).stepPin = s.stepPin := rfl
@[simp] theorem rxCountCall_dirPin : (rxCountCall s).dirPin = s.dirPin := rfl
@[simp] theorem rxCountCall_encA : (rxCountCall s).encA = s.encA := rfl
@[simp] theorem rxCountCall_encB : (rxCountCall s).encB = s.encB := rfl
@[simp] theorem rxCountCall_rx : (rxCountCall s).rx = s.rx := rfl
@[simp] theorem rxCountCall_tx : (rxCountCall s).tx = s.tx := rfl
@[simp] theorem rxCountCall_pump1On : (rxCountCall s).pump1On = s.pump1On := rfl
@[simp] theorem rxCountCall_pump2On : (rxCountCall s).pump2On = s.pump2On := rfl
@[simp] theorem rxCountCall_statusLed : (rxCountCall s).statusLed = s.statusLed := rfl
@[simp] theorem rxCountCall_trace : (rxCountCall s).trace = s.trace ++ [.rxCount] := rfl
@[simp] theorem rxCountCall_turns : (rxCountCall s).turns = s.turns := rfl

@[simp] theorem rxPop_cfg : (rxPop s).cfg = s.cfg := rfl
@[simp] theorem rxPop_axes : (rxPop s).axes = s.axes := rfl
@[simp] theorem rxPop_allCalibrated : (rxPop s).allCalibrated = s.allCalibrated := rfl
@[simp] theorem rxPop_posOverflow : (rxPop s).posOverflow = s.posOverflow := rfl
@[simp] theorem rxPop_enc : (rxPop s).enc = s.enc := rfl
@[simp] theorem rxPop_stepPin : (rxPop s).stepPin = s.stepPin := rfl
@[simp] theorem rxPop_dirPin : (rxPop s).dirPin = s.dirPin := rfl
@[simp] theorem rxPop_encA : (rxPop s).encA = s.encA := rfl
@[simp] theorem rxPop_encB : (rxPop s).encB = s.encB := rfl
@[simp] theorem rxPop_rx : (rxPop s).rx = s.rx.tail := rfl
@[simp] theorem rxPop_tx : (rxPop s).tx = s.tx := rfl
@[simp] theorem rxPop_pump1On : (rxPop s).pump1On = s.pump1On := rfl
@[simp] theorem rxPop_pump2On : (rxPop s).pump2On = s.pump2On := rfl
@[simp] theorem rxPop_statusLed : (rxPop s).statusLed = s.statusLed := rfl
@[simp] theorem rxPop_trace : (rxPop s).trace = s.trace ++ [.rxPop] := rfl
@[simp] theorem rxPop_turns : (rxPop s).turns = s.turns := rfl

@[simp] theorem setStatusLed_cfg (c : Rgb) : (setStatusLed c s).cfg = s.cfg := rfl
@[simp] theorem setStatusLed_axes (c : Rgb) : (setStatusLed c s).axes = s.axes := rfl
@[simp] theorem setStatusLed_allCalibrated (c : Rgb) : (setStatusLed c s).allCalibrated = s.allCalibrated := rfl
@[simp] theorem setStatusLed_posOverflow (c : Rgb) : (setStatusLed c s).posOverflow = s.posOverflow := rfl
@[simp] theorem setStatusLed_enc (c : Rgb) : (setStatusLed c s).enc = s.enc := rfl
@[simp] theorem setStatusLed_stepPin (c : Rgb) : (setStatusLed c s).stepPin = s.stepPin := rfl
@[simp] theorem setStatusLed_dirPin (c : Rgb) : (setStatusLed c s).dirPin = s.dirPin := rfl
@[simp] theorem setStatusLed_encA (c : Rgb) : (setStatusLed c s).encA = s.encA := rfl
@[simp] theorem setStatusLed_encB (c : Rgb) : (setStatusLed c s).encB = s.encB := rfl
@[simp] theorem setStatusLed_rx (c : Rgb) : (setStatusLed c s).rx = s.rx := rfl
@[simp] theorem setStatusLed_tx (c : Rgb) : (setStatusLed c s).tx = s.tx := rfl
@[simp] theorem setStatusLed_pump1On (c : Rgb) : (setStatusLed c s).pump1On = s.pump1On := rfl
@[simp] theorem setStatusLed_pump2On (c : Rgb) : (setStatusLed c s).pump2On = s.pump2On := rfl
@[simp] theorem setStatusLed_statusLed (c : Rgb) : (setStatusLed c s).statusLed = c := rfl
@[simp] theorem setStatusLed_trace (c : Rgb) : (setStatusLed c s).trace = s.trace ++ [.statusLed c] := rfl
@[simp] theorem setStatusLed_turns (c : Rgb) : (setStatusLed c s).turns = s.turns := rfl

@[simp] theorem setPump_pump1_cfg (on : Bool) : (setPump .pump1 on s).cfg = s.cfg := rfl
@[simp] theorem setPump_pump1_axes (on : Bool) : (setPump .pump1 on s).axes = s.axes := rfl
@[simp] theorem setPump_pump1_allCalibrated (on : Bool) : (setPump .pump1 on s).allCalibrated = s.allCalibrated := rfl
@[simp] theorem setPump_pump1_posOverflow (on : Bool) : (setPump .pump1 on s).posOverflow = s.posOverflow := rfl
@[simp] theorem setPump_pump1_enc (on : Bool) : (setPump .pump1 on s).enc = s.enc := rfl
@[simp] theorem setPump_pump1_stepPin (on : Bool) : (setPump .pump1 on s).stepPin = s.stepPin := rfl
@[simp] theorem setPump_pump1_dirPin (on : Bool) : (setPump .pump1 on s).dirPin = s.dirPin := rfl
@[simp] theorem setPump_pump1_encA (on : Bool) : (setPump .pump1 on s).encA = s.encA := rfl
@[simp] theorem setPump_pump1_encB (on : Bool) : (setPump .pump1 on s).encB = s.encB := rfl
@[simp] theorem setPump_pump1_rx (on : Bool) : (setPump .pump1 on s).rx = s.rx := rfl
@[simp] theorem setPump_pump1_tx (on : Bool) : (setPump .pump1 on s).tx = s.tx := rfl
@[simp] theorem setPump_pump1_pump1On (on : Bool) : (setPump .pump1 on s).pump1On = on := rfl
@[simp] theorem setPump_pump1_pump2On (on : Bool) : (setPump .pump1 on s).pump2On = s.pump2On := rfl
@[simp] theorem setPump_pump1_statusLed (on : Bool) : (setPump .pump1 on s).statusLed = s.statusLed := rfl
@[simp] theorem setPump_pump1_trace (on : Bool) : (setPump .pump1 on s).trace = s.trace ++ [.pumpSet .pump1 on] := rfl
@[simp] theorem setPump_pump1_turns (on : Bool) : (setPump .pump1 on s).turns = s.turns := rfl

@[simp] theorem setPump_pump2_cfg (on : Bool) : (setPump .pump2 on s).cfg = s.cfg := rfl
@[simp] theorem setPump_pump2_axes (on : Bool) : (setPump .pump2 on s).axes = s.axes := rfl
@[simp] theorem setPump_pump2_allCalibrated (on : Bool) : (setPump .pump2 on s).allCalibrated = s.allCalibrated := rfl
@[simp] theorem setPump_pump2_posOverflow (on : Bool) : (setPump .pump2 on s).posOverflow = s.posOverflow := rfl
@[simp] theorem setPump_pump2_enc (on : Bool) : (setPump .pump2 on s).enc = s.enc := rfl
@[simp] theorem setPump_pump2_stepPin (on : Bool) : (setPump .pump2 on s).stepPin = s.stepPin := rfl
@[simp] theorem setPump_pump2_dirPin (on : Bool) : (setPump .pump2 on s).dirPin = s.dirPin := rfl
@[simp] theorem setPump_pump2_encA (on : Bool) : (setPump .pump2 on s).encA = s.encA := rfl
@[simp] theorem setPump_pump2_encB (on : Bool) : (setPump .pump2 on s).encB = s.encB := rfl
@[simp] theorem setPump_pump2_rx (on : Bool) : (setPump .pump2 on s).rx = s.rx := rfl
@[simp] theorem setPump_pump2_tx (on : Bool) : (setPump .pump2 on s).tx = s.tx := rfl
@[simp] theorem setPump_pump2_pump1On (on : Bool) : (setPump .pump2 on s).pump1On = s.pump1On := rfl
@[simp] theorem setPump_pump2_pump2On (on : Bool) : (setPump .pump2 on s).pump2On = on := rfl
@[simp] theorem setPump_pump2_statusLed (on : Bool) : (setPump .pump2 on s).statusLed = s.statusLed := rfl
@[simp] theorem setPump_pump2_trace (on : Bool) : (setPump .pump2 on s).trace = s.trace ++ [.pumpSet .pump2 on] := rfl
@[simp] theorem setPump_pump2_turns (on : Bool) : (setPump .pump2 on s).turns = s.turns := rfl

end Sys2Proof.Machine
end

