-- ==== Sys2Proof/Laws/Axes.lean ====
section
/-!
SUPPORT. Values held per axis, the loop over the axes, and the axis selector.
-/

namespace Sys2Proof

section PerAxisLaws
variable {α : Type} (p : PerAxis α) (x y : α)

@[simp] theorem PerAxis.get_set_same (k : Axis) : (p.set k x).get k = x := by cases k <;> rfl

theorem PerAxis.get_set_ne {j k : Axis} (h : k ≠ j) : (p.set j x).get k = p.get k := by
  cases j <;> cases k <;> first | rfl | exact absurd rfl h

theorem PerAxis.get_set (j k : Axis) : (p.set j x).get k = if k = j then x else p.get k := by
  cases j <;> cases k <;> rfl

@[simp] theorem PerAxis.get_of (f : Axis → α) (k : Axis) : (PerAxis.of f).get k = f k := by
  cases k <;> rfl

@[simp] theorem PerAxis.set_get (k : Axis) : p.set k (p.get k) = p := by cases k <;> rfl

@[simp] theorem PerAxis.set_set (k : Axis) : (p.set k x).set k y = p.set k y := by cases k <;> rfl

theorem PerAxis.set_comm {j k : Axis} (h : j ≠ k) : (p.set j x).set k y = (p.set k y).set j x := by
  cases j <;> cases k <;> first | rfl | exact absurd rfl h

/-- Two values per axis are equal when they agree on every axis. -/
theorem PerAxis.ext_get {p q : PerAxis α} (h : ∀ k, p.get k = q.get k) : p = q := by
  cases p; cases q
  simpa [PerAxis.get] using And.intro (h .a1) (And.intro (h .a2) (And.intro (h .a3) (And.intro (h .a4) (h .a5))))

end PerAxisLaws

/-- Every axis is in the list of axes. -/
theorem Axis.mem_all (k : Axis) : k ∈ Axis.all := by cases k <;> decide

/-- A property of every axis, one axis at a time. -/
theorem Axis.forall_iff (p : Axis → Prop) : (∀ k, p k) ↔ p .a1 ∧ p .a2 ∧ p .a3 ∧ p .a4 ∧ p .a5 :=
  ⟨fun h => ⟨h _, h _, h _, h _, h _⟩, fun ⟨h1, h2, h3, h4, h5⟩ k => by cases k <;> assumption⟩

end Sys2Proof

namespace Sys2Proof.Machine

variable (s : State)

@[simp] theorem axisRec_setAxisRec_same (k : Axis) (m : MotorAxis) : axisRec (setAxisRec k m s) k = m := by
  simp [axisRec]

theorem axisRec_setAxisRec_ne {j k : Axis} (m : MotorAxis) (h : k ≠ j) :
    axisRec (setAxisRec j m s) k = axisRec s k := by
  simp [axisRec, PerAxis.get_set_ne _ _ h]

/-- What no body of the loop changes, the loop does not change. -/
theorem forEachAxis_keeps {β : Type} (view : State → β) {body : Axis → State → State}
    (h : ∀ k t, view (body k t) = view t) : view (forEachAxis body s) = view s := by
  simp [forEachAxis, h]

/-- What holds before the loop and is kept by every body holds after it. -/
theorem forEachAxis_holds {P : State → Prop} {body : Axis → State → State} (h : ∀ k t, P t → P (body k t))
    (hs : P s) : P (forEachAxis body s) := by
  unfold forEachAxis
  exact h _ _ (h _ _ (h _ _ (h _ _ (h _ _ hs))))

/-- A view that only the body of axis `k` changes, and that this body computes from itself and from what no body
changes, is after the loop what that body makes of it. -/
theorem forEachAxis_local {β : Type} (k : Axis) (view : State → β) {body : Axis → State → State} {f : β → β}
    (own : ∀ t, view (body k t) = f (view t)) (others : ∀ j t, j ≠ k → view (body j t) = view t) :
    view (forEachAxis body s) = f (view s) := by
  unfold forEachAxis
  cases k <;> simp [own, others]

/-- The bytes or events the bodies append, in ascending axis order. -/
theorem forEachAxis_appends {β γ : Type} (out : State → List β) (view : Axis → State → γ) (e : Axis → γ → List β)
    {body : Axis → State → State}
    (own : ∀ k t, out (body k t) = out t ++ e k (view k t))
    (others : ∀ j k t, j ≠ k → view k (body j t) = view k t) :
    out (forEachAxis body s) = out s ++ Axis.all.flatMap fun k => e k (view k s) := by
  simp [forEachAxis, own, others, Axis.all]

/-- A selector names axis `k` exactly when `sel - AXIS_SEL_BASE` is its number (R83, R180). -/
theorem axisOf_eq_some {c : Params} {sel : Byte} {k : Axis} : axisOf c sel = some k ↔ Selects c sel k := by
  unfold axisOf Selects
  cases k <;> simp only [Axis.num] <;> split_ifs <;> simp_all

/-- A selector names no axis exactly when `sel - AXIS_SEL_BASE` is outside 1..5 (R83, R180). -/
theorem axisOf_eq_none {c : Params} {sel : Byte} : axisOf c sel = none ↔ SelectsNone c sel := by
  unfold axisOf SelectsNone
  dsimp only
  split_ifs <;> simp <;> omega

end Sys2Proof.Machine
end

