-- ==== Sys2Proof/Laws/Engine.lean ====
section
/-!
SUPPORT. Everything phase 1 and phases 3 and 4 can do to a state, said once (42_engine.md R140 to R153): the
closed form of one axis's phase 4, and each field of the state after the whole of it.
-/

namespace Sys2Proof.Machine

/-- The record of axis `k` after its step in phase 4 (R144, R146, R148). -/
def steppedRec (s : State) (k : Axis) : MotorAxis :=
  { axisRec s k with
    expectedPosition := advanced s k
    stepsRemaining := (axisRec s k).stepsRemaining - 1 }

/-- The record of axis `k` after phase 4 (R144 to R153). -/
def phase4Rec (s : State) (k : Axis) : MotorAxis :=
  if completesPass s k then
    if correctionDue s k then
      { steppedRec s k with
        encoderPosition := s.enc.get k
        direction := decide (s.enc.get k < advanced s k)
        stepsRemaining := passError s k / s.cfg.posUnit.get k
        correcting := true }
    else
      { steppedRec s k with encoderPosition := s.enc.get k, running := false, correcting := false }
  else steppedRec s k

/-- Axis `k`'s open-loop advance in phase 4 wraps (R37, R146). -/
def advanceWraps (s : State) (k : Axis) : Bool :=
  let a := axisRec s k
  let u : Int := (s.cfg.posUnit.get k : Int)
  decide (0 < a.stepsRemaining) && !a.correcting &&
    outsideSigned s.cfg.wPos (a.expectedPosition + (if a.direction = true then u else -u))

/-- Axis `k`'s phase 4 as one record update. -/
def phase4 (total : Nat) (k : Axis) (s : State) : State :=
  { s with
    axes := s.axes.set k (phase4Rec s k)
    posOverflow := s.posOverflow || advanceWraps s k
    stepPin := if 0 < (axisRec s k).stepsRemaining then s.stepPin.set k false else s.stepPin
    dirPin := if 0 < (axisRec s k).stepsRemaining then
        s.dirPin.set k (dirLevel s.cfg (axisRec s k).direction) else s.dirPin
    tx := s.tx ++ if finishes s k then doneBytes k else []
    trace := s.trace ++ phase4Events s total k }

/-- The byte of an axis's digit in its reply. -/
theorem digit_eq (k : Axis) : (0x30#8 + BitVec.ofNat 8 k.num) = BitVec.ofNat 8 (0x30 + k.num) := by
  cases k <;> rfl

/-- The loop body of phase 4 is that record update. -/
theorem engineAxis_eq (total : Nat) (k : Axis) (s : State) : engineAxis total k s = phase4 total k s := by
  obtain ⟨cfg, axes, ac, po, enc, sp, dp, ea, eb, rx, tx, p1, p2, led, tr, tu⟩ := s
  rcases ha : axes.get k with ⟨cal, tp, ep, encp, st, dir, cor, run, per, ms, et⟩
  rcases st with _ | _ | st <;> cases cor <;> cases run <;>
    simp [engineAxis, stepAxis, expectedAdvance, complete, snapshot, correctOrFinish, finish, pulse, setPin, emit,
      doneReply, txWrite, setAxisRec, markOverflow, axisRec, phase4, phase4Rec, advanceWraps, overflowAfter, steppedRec, phase4Events,
      stepEvents, finishes, completesPass, correctionDue, passError, advanced, dirLevel, ha, digit_eq, doneEvent,
      doneBytes] <;>
    first
      | (rw [← ha]; simp)
      | (split_ifs <;> simp_all <;> omega)


/-- What axis `k`'s phase 4 reads: the configuration, its own record and its own counter. -/
def axisView (k : Axis) (s : State) : Params × MotorAxis × Int := (s.cfg, axisRec s k, s.enc.get k)

/-- The phase 4 of another axis does not change that view. -/
theorem axisView_phase4 {j k : Axis} (total : Nat) (s : State) (h : j ≠ k) :
    axisView k (phase4 total j s) = axisView k s := by
  simp [axisView, phase4, axisRec, PerAxis.get_set_ne _ _ (Ne.symm h)]

/-- Equal views make the phase 4 of axis `k` do the same. -/
theorem phase4_congr {s t : State} {k : Axis} (h : axisView k s = axisView k t) :
    phase4Rec s k = phase4Rec t k ∧ advanceWraps s k = advanceWraps t k ∧ finishes s k = finishes t k ∧
      ∀ total, phase4Events s total k = phase4Events t total k := by
  simp only [axisView, Prod.mk.injEq] at h
  obtain ⟨h1, h2, h3⟩ := h
  have ha : advanced s k = advanced t k := by simp only [advanced, h1, h2]
  have he : passError s k = passError t k := by simp only [passError, ha, h3]
  have hc : completesPass s k = completesPass t k := by simp only [completesPass, h2]
  have hd : correctionDue s k = correctionDue t k := by simp only [correctionDue, h1, h2, he]
  have hf : finishes s k = finishes t k := by simp only [finishes, hc, hd]
  have hr : steppedRec s k = steppedRec t k := by simp only [steppedRec, h2, ha]
  refine ⟨?_, ?_, hf, fun total => ?_⟩
  · simp only [phase4Rec, hc, hd, hr, h1, h3, ha, he]
  · simp only [advanceWraps, h1, h2]
  · simp only [phase4Events, stepEvents, hf, h1, h2]

section Motion
variable (s : State)

/-- Phases 3 and 4 as the loop of one record update per axis. -/
theorem motionPhases_eq : motionPhases s = forEachAxis (phase4 (totalRunning s)) s := by
  simp [motionPhases, forEachAxis, engineAxis_eq]

@[simp] theorem motionPhases_cfg : (motionPhases s).cfg = s.cfg := by
  rw [motionPhases_eq]; exact forEachAxis_keeps s (·.cfg) fun _ _ => rfl
@[simp] theorem motionPhases_allCalibrated : (motionPhases s).allCalibrated = s.allCalibrated := by
  rw [motionPhases_eq]; exact forEachAxis_keeps s (·.allCalibrated) fun _ _ => rfl
@[simp] theorem motionPhases_enc : (motionPhases s).enc = s.enc := by
  rw [motionPhases_eq]; exact forEachAxis_keeps s (·.enc) fun _ _ => rfl
@[simp] theorem motionPhases_encA : (motionPhases s).encA = s.encA := by
  rw [motionPhases_eq]; exact forEachAxis_keeps s (·.encA) fun _ _ => rfl
@[simp] theorem motionPhases_encB : (motionPhases s).encB = s.encB := by
  rw [motionPhases_eq]; exact forEachAxis_keeps s (·.encB) fun _ _ => rfl
@[simp] theorem motionPhases_rx : (motionPhases s).rx = s.rx := by
  rw [motionPhases_eq]; exact forEachAxis_keeps s (·.rx) fun _ _ => rfl
@[simp] theorem motionPhases_pump1On : (motionPhases s).pump1On = s.pump1On := by
  rw [motionPhases_eq]; exact forEachAxis_keeps s (·.pump1On) fun _ _ => rfl
@[simp] theorem motionPhases_pump2On : (motionPhases s).pump2On = s.pump2On := by
  rw [motionPhases_eq]; exact forEachAxis_keeps s (·.pump2On) fun _ _ => rfl
@[simp] theorem motionPhases_statusLed : (motionPhases s).statusLed = s.statusLed := by
  rw [motionPhases_eq]; exact forEachAxis_keeps s (·.statusLed) fun _ _ => rfl
@[simp] theorem motionPhases_turns : (motionPhases s).turns = s.turns := by
  rw [motionPhases_eq]; exact forEachAxis_keeps s (·.turns) fun _ _ => rfl

/-- The loop with the view of axis `k` as a parameter: what axis `k`'s body appends is read off the state before
the loop. -/
theorem phase4_loop_appends {β : Type} (n : Nat) (out : State → List β) (e : State → Axis → List β)
    (own : ∀ k t, out (phase4 n k t) = out t ++ e t k)
    (congr : ∀ k t u, axisView k t = axisView k u → e t k = e u k) :
    out (forEachAxis (phase4 n) s) = out s ++ Axis.all.flatMap (e s) := by
  have hv : ∀ (j k : Axis) (t : State), j ≠ k → e (phase4 n j t) k = e t k :=
    fun j k t h => congr k _ _ (axisView_phase4 n t h)
  simp [forEachAxis, own, Axis.all, hv]

/-- The record of every axis after phase 4 is its closed form on the state before it. -/
theorem axisRec_motionPhases (k : Axis) : axisRec (motionPhases s) k = phase4Rec s k := by
  have hv : ∀ (n : Nat) (j k : Axis) (t : State), j ≠ k → axisView k (phase4 n j t) = axisView k t :=
    fun n j k t h => axisView_phase4 n t h
  have own : ∀ (n : Nat) (j : Axis) (t : State), axisRec (phase4 n j t) j = phase4Rec t j := by
    intro n j t; simp [phase4, axisRec]
  have oth : ∀ (n : Nat) (j k : Axis) (t : State), j ≠ k → axisRec (phase4 n j t) k = axisRec t k := by
    intro n j k t h; simp [phase4, axisRec, PerAxis.get_set_ne _ _ (Ne.symm h)]
  have hr : ∀ (n : Nat) (j k : Axis) (t : State), j ≠ k → phase4Rec (phase4 n j t) k = phase4Rec t k :=
    fun n j k t h => (phase4_congr (hv n j k t h)).1
  rw [motionPhases_eq]
  cases k <;> simp [forEachAxis, own, oth, hr]

/-- The replies of phase 4, in ascending axis order (R152, R247). -/
theorem motionPhases_tx :
    (motionPhases s).tx = s.tx ++ Axis.all.flatMap fun k => if finishes s k then doneBytes k else [] := by
  rw [motionPhases_eq]
  exact phase4_loop_appends s _ (·.tx) (fun t k => if finishes t k then doneBytes k else []) (fun _ _ => rfl)
    fun k t u h => by rw [(phase4_congr h).2.2.1]

/-- The events of phases 3 and 4, in ascending axis order (R145, R147, R152). -/
theorem motionPhases_trace :
    (motionPhases s).trace = s.trace ++ Axis.all.flatMap fun k => phase4Events s (totalRunning s) k := by
  rw [motionPhases_eq]
  exact phase4_loop_appends s _ (·.trace) (fun t k => phase4Events t (totalRunning s) k) (fun _ _ => rfl)
    fun k t u h => (phase4_congr h).2.2.2 _

/-- The overflow mark after phase 4: set before, or by the advance of some axis (R37, R146). -/
theorem motionPhases_posOverflow :
    (motionPhases s).posOverflow = (s.posOverflow || Axis.all.any (advanceWraps s)) := by
  have own : ∀ (n : Nat) (j : Axis) (t : State), (phase4 n j t).posOverflow = (t.posOverflow || advanceWraps t j) :=
    fun _ _ _ => rfl
  have hw : ∀ (n : Nat) (j k : Axis) (t : State), j ≠ k → advanceWraps (phase4 n j t) k = advanceWraps t k :=
    fun n j k t h => (phase4_congr (axisView_phase4 n t h)).2.1
  rw [motionPhases_eq]
  simp [forEachAxis, own, hw, Axis.all, Bool.or_assoc]

/-- STEP after phase 4: low where the axis stepped, else as it was (R147). -/
theorem stepPin_motionPhases (k : Axis) :
    (motionPhases s).stepPin.get k = if 0 < (axisRec s k).stepsRemaining then false else s.stepPin.get k := by
  have own : ∀ (n : Nat) (j : Axis) (t : State),
      (phase4 n j t).stepPin.get j = if 0 < (axisRec t j).stepsRemaining then false else t.stepPin.get j := by
    intro n j t; simp only [phase4]; split_ifs <;> simp
  have oth : ∀ (n : Nat) (j k : Axis) (t : State), j ≠ k → (phase4 n j t).stepPin.get k = t.stepPin.get k := by
    intro n j k t h; simp only [phase4]; split_ifs <;> simp [PerAxis.get_set_ne _ _ (Ne.symm h)]
  have ho : ∀ (n : Nat) (j k : Axis) (t : State), j ≠ k → axisRec (phase4 n j t) k = axisRec t k := by
    intro n j k t h; simp [phase4, axisRec, PerAxis.get_set_ne _ _ (Ne.symm h)]
  rw [motionPhases_eq]
  cases k <;> simp [forEachAxis, own, oth, ho]

/-- DIR after phase 4: the axis's direction level where it stepped, else as it was (R145). -/
theorem dirPin_motionPhases (k : Axis) :
    (motionPhases s).dirPin.get k =
      if 0 < (axisRec s k).stepsRemaining then dirLevel s.cfg (axisRec s k).direction else s.dirPin.get k := by
  have own : ∀ (n : Nat) (j : Axis) (t : State), (phase4 n j t).dirPin.get j =
      if 0 < (axisRec t j).stepsRemaining then dirLevel t.cfg (axisRec t j).direction else t.dirPin.get j := by
    intro n j t; simp only [phase4]; split_ifs <;> simp
  have oth : ∀ (n : Nat) (j k : Axis) (t : State), j ≠ k → (phase4 n j t).dirPin.get k = t.dirPin.get k := by
    intro n j k t h; simp only [phase4]; split_ifs <;> simp [PerAxis.get_set_ne _ _ (Ne.symm h)]
  have ho : ∀ (n : Nat) (j k : Axis) (t : State), j ≠ k → axisRec (phase4 n j t) k = axisRec t k := by
    intro n j k t h; simp [phase4, axisRec, PerAxis.get_set_ne _ _ (Ne.symm h)]
  have hc : ∀ (n : Nat) (j : Axis) (t : State), (phase4 n j t).cfg = t.cfg := fun _ _ _ => rfl
  rw [motionPhases_eq]
  cases k <;> simp [forEachAxis, own, oth, ho, hc]

end Motion

section Clear
variable (s : State)

/-- Phase 1 as one record update (R141). -/
theorem clearOutputs_eq : clearOutputs s =
    { s with
      stepPin := PerAxis.of fun _ => false
      dirPin := PerAxis.of fun _ => false
      trace := s.trace ++ clearEvents } := by
  simp [clearOutputs, forEachAxis, setPin, emit, clearEvents, Axis.all, PerAxis.set, PerAxis.of]

@[simp] theorem axisRec_clearOutputs (k : Axis) : axisRec (clearOutputs s) k = axisRec s k := by
  simp [clearOutputs_eq, axisRec]

end Clear

end Sys2Proof.Machine
end

