-- ==== Sys2Proof/Laws/Exec.lean ====
section
/-!
SUPPORT. What each command answers, said once (43_motor_commands.md, 44_peripheral_commands.md): a command always
answers a next state, and these lemmas give it field by field.
-/

namespace Sys2Proof.Machine

variable (s : State)

/-- ProtocolError is the reply `E010` and nothing else (R241). -/
theorem raiseProtocolError_eq : raiseProtocolError s = withErrorReply s := rfl

/-- The state a command leaves, for every command (R122). -/
def afterExec (i : Instr) (s : State) : State :=
  match i with
  | .stop _ _ _ => forEachAxis stopAxis s
  | .cal sel _ _ => match axisOf s.cfg sel with
    | some k => calibrateAxis k s
    | none => withErrorReply s
  | .move sel dir count => match axisOf s.cfg sel with
    | some k => moveAxis dir count k s
    | none => withErrorReply s
  | .pump p1 p2 p3 => match pumpDecode s.cfg p1 p2 p3 with
    | some p => drivePump p s
    | none => withErrorReply s
  | .light p1 p2 p3 => match lightDecode s.cfg p1 p2 p3 with
    | some l => driveLight l s
    | none => withErrorReply s
  | .setp p1 p2 p3 => match axisOf s.cfg p1 with
    | some k => setPeriodAxis (periodDecode s.cfg p1 p2 p3) k s
    | none => withErrorReply s
  | .reset _ _ _ =>
    setStatusLed s.cfg.colorUncal (emit .ringReset { forEachAxis resetAxis s with allCalibrated := false })
  | .invalid _ _ _ _ => withErrorReply s

/-- Every command answers a next state (R241, R243). -/
theorem exec_eq (i : Instr) : exec i s = .next (afterExec i s) := by
  cases i <;> simp only [exec, afterExec, execStop, execCal, execMove, execPump, execLight, execSetp, execReset,
    execInvalid, raiseProtocolError_eq]
  all_goals (split <;> simp_all)

/-- Stop's loop body as one record update. -/
theorem stopAxis_eq (k : Axis) : stopAxis k s =
    { s with
      axes := s.axes.set k { axisRec s k with stepsRemaining := 0, correcting := false, running := false }
      tx := s.tx ++ if (axisRec s k).running then doneBytes k else []
      trace := s.trace ++ if (axisRec s k).running then [doneEvent k] else [] } := by
  unfold stopAxis
  split <;> simp_all [setAxisRec, doneReply, txWrite, emit, doneBytes, doneEvent, digit_eq]

theorem axisRec_stopAxis_ne {j k : Axis} (h : k ≠ j) : axisRec (stopAxis j s) k = axisRec s k := by
  simp [stopAxis_eq, axisRec, PerAxis.get_set_ne _ _ h]

/-- Every axis's record after Stop (R181). -/
theorem axisRec_stop (k : Axis) : axisRec (forEachAxis stopAxis s) k =
    { axisRec s k with stepsRemaining := 0, correcting := false, running := false } :=
  forEachAxis_local s k (axisRec · k)
    (f := fun a => { a with stepsRemaining := 0, correcting := false, running := false })
    (fun t => by simp [stopAxis_eq, axisRec]) fun j t h => axisRec_stopAxis_ne t (Ne.symm h)

/-- The replies of Stop, in ascending axis order (R181). -/
theorem stop_tx : (forEachAxis stopAxis s).tx =
    s.tx ++ (Axis.all.filter fun k => (axisRec s k).running).flatMap doneBytes := by
  rw [forEachAxis_appends s (·.tx) (fun k t => (axisRec t k).running)
    (fun k b => if b then doneBytes k else []) (fun k t => by simp [stopAxis_eq])
    (fun j k t h => by rw [axisRec_stopAxis_ne t (Ne.symm h)])]
  simp only [Axis.all, List.filter, List.flatMap_cons, List.flatMap_nil]
  cases (axisRec s .a1).running <;> cases (axisRec s .a2).running <;> cases (axisRec s .a3).running <;>
    cases (axisRec s .a4).running <;> cases (axisRec s .a5).running <;> rfl

/-- The events of Stop, in ascending axis order (R181). -/
theorem stop_trace : (forEachAxis stopAxis s).trace =
    s.trace ++ (Axis.all.filter fun k => (axisRec s k).running).map doneEvent := by
  rw [forEachAxis_appends s (·.trace) (fun k t => (axisRec t k).running)
    (fun k b => if b then [doneEvent k] else []) (fun k t => by simp [stopAxis_eq])
    (fun j k t h => by rw [axisRec_stopAxis_ne t (Ne.symm h)])]
  simp only [Axis.all, List.filter, List.flatMap_cons, List.flatMap_nil]
  cases (axisRec s .a1).running <;> cases (axisRec s .a2).running <;> cases (axisRec s .a3).running <;>
    cases (axisRec s .a4).running <;> cases (axisRec s .a5).running <;> rfl

/-- Stop changes only the records and what it replies (R181). -/
theorem stop_frame : forEachAxis stopAxis s =
    { s with
      axes := (forEachAxis stopAxis s).axes
      tx := (forEachAxis stopAxis s).tx
      trace := (forEachAxis stopAxis s).trace } := by
  have h : ∀ k t, ∃ a b c, stopAxis k t = { t with axes := a, tx := b, trace := c } :=
    fun k t => ⟨_, _, _, stopAxis_eq t k⟩
  refine forEachAxis_holds (P := fun t => t = { s with axes := t.axes, tx := t.tx, trace := t.trace }) s ?_ rfl
  intro k t ht
  rw [stopAxis_eq, ht]

/-- Every axis's record after Reset's loop (R185). -/
theorem axisRec_reset (k : Axis) : axisRec (forEachAxis resetAxis s) k =
    { axisRec s k with
      calibrated := false, targetPosition := 0, expectedPosition := 0, encoderPosition := 0,
      stepsRemaining := 0, direction := false, correcting := false, running := false } :=
  forEachAxis_local s k (axisRec · k)
    (f := fun a =>
      { a with
        calibrated := false, targetPosition := 0, expectedPosition := 0, encoderPosition := 0,
        stepsRemaining := 0, direction := false, correcting := false, running := false })
    (fun t => by simp [resetAxis]) fun j t h => by simp [resetAxis, axisRec_setAxisRec_ne _ _ (Ne.symm h)]

/-- Reset's loop changes only the records (R185). -/
theorem reset_frame : forEachAxis resetAxis s = { s with axes := (forEachAxis resetAxis s).axes } := by
  refine forEachAxis_holds (P := fun t => t = { s with axes := t.axes }) s ?_ rfl
  intro k t ht
  rw [resetAxis, setAxisRec, ht]

/-- The five-fold test of Calibrate is calibration of every axis (R182). -/
theorem allFiveCalibrated_iff : allFiveCalibrated s = true ↔ ∀ k, (axisRec s k).calibrated = true := by
  rw [Axis.forall_iff]; simp [allFiveCalibrated, and_assoc]

section Frame
variable (i : Instr)

/-- What no command changes. -/
theorem afterExec_frame : (afterExec i s).cfg = s.cfg ∧ (afterExec i s).enc = s.enc ∧ (afterExec i s).encA = s.encA ∧
    (afterExec i s).encB = s.encB ∧ (afterExec i s).posOverflow = s.posOverflow ∧
    (afterExec i s).stepPin = s.stepPin ∧ (afterExec i s).dirPin = s.dirPin ∧ (afterExec i s).rx = s.rx ∧
    (afterExec i s).turns = s.turns := by
  cases i with
  | stop => rw [afterExec, stop_frame]; simp
  | reset => rw [afterExec, reset_frame]; simp
  | cal =>
    simp only [afterExec]; split
    · unfold calibrateAxis; dsimp only; split <;> simp
    · simp [withErrorReply]
  | pump =>
    simp only [afterExec]; split
    · rename_i p _; obtain ⟨c, on⟩ := p
      cases c <;> cases on <;> simp [drivePump, PumpChannel.other]
    · simp [withErrorReply]
  | light =>
    simp only [afterExec]; split
    · rename_i l _
      cases l with
      | status st b => cases b <;> simp [driveLight]
      | pixel => simp [driveLight]
    · simp [withErrorReply]
  | move => simp only [afterExec]; split <;> simp [moveAxis, withErrorReply]
  | setp => simp only [afterExec]; split <;> simp [setPeriodAxis, withErrorReply]
  | invalid => simp [afterExec, withErrorReply]

end Frame

end Sys2Proof.Machine
end

