-- ==== Sys2Proof/Laws/Step.lean ====
section
/-!
SUPPORT. What one step can do, said once: the inversion of `step`, the step of an Engine iteration from its command
phase, and what a command phase leaves unchanged (41_frame_decoder.md R120 to R122, 42_engine.md R140).
-/

namespace Sys2Proof.Machine

section PollStates
variable (s : State) (r : List Turn)

@[simp] theorem clearedState_cfg : (clearedState s r).cfg = s.cfg := rfl
@[simp] theorem clearedState_axes : (clearedState s r).axes = s.axes := rfl
@[simp] theorem clearedState_allCalibrated : (clearedState s r).allCalibrated = s.allCalibrated := rfl
@[simp] theorem clearedState_posOverflow : (clearedState s r).posOverflow = s.posOverflow := rfl
@[simp] theorem clearedState_enc : (clearedState s r).enc = s.enc := rfl
@[simp] theorem clearedState_stepPin : (clearedState s r).stepPin = PerAxis.of (fun _ => false) := rfl
@[simp] theorem clearedState_dirPin : (clearedState s r).dirPin = PerAxis.of (fun _ => false) := rfl
@[simp] theorem clearedState_encA : (clearedState s r).encA = s.encA := rfl
@[simp] theorem clearedState_encB : (clearedState s r).encB = s.encB := rfl
@[simp] theorem clearedState_rx : (clearedState s r).rx = s.rx := rfl
@[simp] theorem clearedState_tx : (clearedState s r).tx = s.tx := rfl
@[simp] theorem clearedState_pump1On : (clearedState s r).pump1On = s.pump1On := rfl
@[simp] theorem clearedState_pump2On : (clearedState s r).pump2On = s.pump2On := rfl
@[simp] theorem clearedState_statusLed : (clearedState s r).statusLed = s.statusLed := rfl
@[simp] theorem clearedState_trace : (clearedState s r).trace = s.trace ++ clearEvents := rfl
@[simp] theorem clearedState_turns : (clearedState s r).turns = r := rfl
@[simp] theorem axisRec_clearedState (k : Axis) : axisRec (clearedState s r) k = axisRec s k := rfl

@[simp] theorem polledState_cfg : (polledState s r).cfg = s.cfg := rfl
@[simp] theorem polledState_axes : (polledState s r).axes = s.axes := rfl
@[simp] theorem polledState_allCalibrated : (polledState s r).allCalibrated = s.allCalibrated := rfl
@[simp] theorem polledState_posOverflow : (polledState s r).posOverflow = s.posOverflow := rfl
@[simp] theorem polledState_enc : (polledState s r).enc = s.enc := rfl
@[simp] theorem polledState_stepPin : (polledState s r).stepPin = PerAxis.of (fun _ => false) := rfl
@[simp] theorem polledState_dirPin : (polledState s r).dirPin = PerAxis.of (fun _ => false) := rfl
@[simp] theorem polledState_encA : (polledState s r).encA = s.encA := rfl
@[simp] theorem polledState_encB : (polledState s r).encB = s.encB := rfl
@[simp] theorem polledState_rx : (polledState s r).rx = s.rx := rfl
@[simp] theorem polledState_tx : (polledState s r).tx = s.tx := rfl
@[simp] theorem polledState_pump1On : (polledState s r).pump1On = s.pump1On := rfl
@[simp] theorem polledState_pump2On : (polledState s r).pump2On = s.pump2On := rfl
@[simp] theorem polledState_statusLed : (polledState s r).statusLed = s.statusLed := rfl
@[simp] theorem polledState_trace : (polledState s r).trace = s.trace ++ clearEvents ++ [.rxCount] := rfl
@[simp] theorem polledState_turns : (polledState s r).turns = r := rfl
@[simp] theorem axisRec_polledState (k : Axis) : axisRec (polledState s r) k = axisRec s k := rfl

@[simp] theorem consumedState_cfg : (consumedState s r).cfg = s.cfg := rfl
@[simp] theorem consumedState_axes : (consumedState s r).axes = s.axes := rfl
@[simp] theorem consumedState_allCalibrated : (consumedState s r).allCalibrated = s.allCalibrated := rfl
@[simp] theorem consumedState_posOverflow : (consumedState s r).posOverflow = s.posOverflow := rfl
@[simp] theorem consumedState_enc : (consumedState s r).enc = s.enc := rfl
@[simp] theorem consumedState_stepPin : (consumedState s r).stepPin = PerAxis.of (fun _ => false) := rfl
@[simp] theorem consumedState_dirPin : (consumedState s r).dirPin = PerAxis.of (fun _ => false) := rfl
@[simp] theorem consumedState_encA : (consumedState s r).encA = s.encA := rfl
@[simp] theorem consumedState_encB : (consumedState s r).encB = s.encB := rfl
@[simp] theorem consumedState_rx : (consumedState s r).rx = [] := rfl
@[simp] theorem consumedState_tx : (consumedState s r).tx = s.tx := rfl
@[simp] theorem consumedState_pump1On : (consumedState s r).pump1On = s.pump1On := rfl
@[simp] theorem consumedState_pump2On : (consumedState s r).pump2On = s.pump2On := rfl
@[simp] theorem consumedState_statusLed : (consumedState s r).statusLed = s.statusLed := rfl
@[simp] theorem consumedState_trace : (consumedState s r).trace =
    s.trace ++ clearEvents ++ [.rxCount, .rxPop, .rxPop, .rxPop, .rxPop] := rfl
@[simp] theorem consumedState_turns : (consumedState s r).turns = r := rfl
@[simp] theorem axisRec_consumedState (k : Axis) : axisRec (consumedState s r) k = axisRec s k := rfl

end PollStates

/-- Phase 1 after the Engine took its turn. -/
theorem clearOutputs_turns (s : State) (r : List Turn) : clearOutputs { s with turns := r } = clearedState s r := by
  rw [clearOutputs_eq]; rfl

/-- A decoded frame that uses up the stream was four bytes long. -/
theorem length_of_decode {bs : List Byte} {i : Instr} (h : decode bs = .ok (i, [])) : bs.length = 4 := by
  unfold decode at h
  split at h <;> simp_all

/-- Four bytes decode to a frame with none left over. -/
theorem decode_of_length {bs : List Byte} (h : bs.length = 4) : ∃ i, decode bs = .ok (i, []) := by
  match bs, h with
  | [b1, p1, p2, p3], _ => exact ⟨_, rfl⟩

/-- The poll after phase 1 (R120, R121). -/
theorem pollFrame_clearedState (s : State) (r : List Turn) :
    (∀ i, decode s.rx = .ok (i, []) → pollFrame (clearedState s r) = (some i, consumedState s r)) ∧
    (s.rx.length ≠ 4 → pollFrame (clearedState s r) = (none, polledState s r)) := by
  constructor
  · intro i h
    have hl := length_of_decode h
    match hs : s.rx, hl with
    | [b1, p1, p2, p3], _ =>
      rw [hs] at h
      simp [pollFrame, rxCount, clearedState, consumedState, popFrame, rxPop, rxCountCall, emit, hs, h]
  · intro h
    simp [pollFrame, rxCount, clearedState, polledState, rxCountCall, emit, h]

/-- An Engine turn is an iteration on the state with the turn taken. -/
theorem step_engineNext {s : State} {r : List Turn} (hc : configOk s.cfg = true) (he : EngineNext s r) :
    step s = iteration { s with turns := r } := by
  rcases he with ⟨h, rfl⟩ | h
  · have : { s with turns := [] } = s := by cases s; simp_all
    simp [step, guardedTurn, hc, nextTurn, h, this]
  · simp [step, guardedTurn, hc, nextTurn, h]

/-- An Engine turn has a command phase. -/
theorem commandPhase_exists {s : State} {r : List Turn} (hc : configOk s.cfg = true) (he : EngineNext s r) :
    ∃ u, CommandPhase s r u := by
  by_cases h : s.rx.length = 4
  · obtain ⟨i, hi⟩ := decode_of_length h
    exact ⟨_, he, hc, .inr ⟨i, hi, exec_eq _ _⟩⟩
  · exact ⟨_, he, hc, .inl ⟨h, rfl⟩⟩

/-- The step of an Engine turn runs phases 3 and 4 on what its command phase leaves (R140, R142). -/
theorem step_of_commandPhase {s u : State} {r : List Turn} (h : CommandPhase s r u) :
    step s = .next (motionPhases u) := by
  obtain ⟨he, hc, hu⟩ := h
  rw [step_engineNext hc he, iteration, clearOutputs_turns]
  rcases hu with ⟨hn, rfl⟩ | ⟨i, hi, hx⟩
  · rw [(pollFrame_clearedState s r).2 hn]; rfl
  · rw [(pollFrame_clearedState s r).1 i hi]; simp [hx, afterCommand]

/-- The inversion of `step`: an Engine iteration from its command phase, or the turn of another agent. -/
theorem step_cases {s t : State} (h : step s = .next t) :
    configOk s.cfg = true ∧
      ((∃ r u, CommandPhase s r u ∧ t = motionPhases u) ∨
        ∃ m r, s.turns = .other m :: r ∧ t = agentStep m { s with turns := r }) := by
  have hc : configOk s.cfg = true := by
    by_contra hc
    simp [step, guardedTurn, hc] at h
  refine ⟨hc, ?_⟩
  have engine : ∀ r, EngineNext s r → ∃ r u, CommandPhase s r u ∧ t = motionPhases u := by
    intro r he
    obtain ⟨u, hu⟩ := commandPhase_exists hc he
    rw [step_of_commandPhase hu] at h
    exact ⟨r, u, hu, by simpa using h.symm⟩
  match ht : s.turns with
  | [] => exact .inl (engine [] (.inl ⟨ht, rfl⟩))
  | .engine :: r => exact .inl (engine r (.inr ht))
  | .other m :: r =>
    simp only [step, guardedTurn, hc, nextTurn, ht, if_true, Host.Outcome.next.injEq] at h
    exact .inr ⟨m, r, rfl, h.symm⟩

/-- The step of another agent's turn. -/
theorem step_other {s : State} {m : AgentMove} {r : List Turn} (hc : configOk s.cfg = true)
    (h : s.turns = .other m :: r) : step s = .next (agentStep m { s with turns := r }) := by
  simp [step, guardedTurn, hc, nextTurn, h]

/-- The state a command phase leaves, as the command's effect on the cleared state. -/
theorem commandPhase_cases {s u : State} {r : List Turn} (h : CommandPhase s r u) :
    (s.rx.length ≠ 4 ∧ u = polledState s r) ∨
      ∃ i, decode s.rx = .ok (i, []) ∧ u = afterExec i (consumedState s r) := by
  obtain ⟨_, _, hu | ⟨i, hi, hx⟩⟩ := h
  · exact .inl hu
  · rw [exec_eq] at hx
    exact .inr ⟨i, hi, by simpa using hx.symm⟩

/-- What no command phase changes, and the outputs it clears. -/
theorem commandPhase_frame {s u : State} {r : List Turn} (h : CommandPhase s r u) :
    u.cfg = s.cfg ∧ u.enc = s.enc ∧ u.encA = s.encA ∧ u.encB = s.encB ∧ u.posOverflow = s.posOverflow ∧
      u.turns = r ∧ (u.stepPin = PerAxis.of fun _ => false) ∧ (u.dirPin = PerAxis.of fun _ => false) := by
  rcases commandPhase_cases h with ⟨_, rfl⟩ | ⟨i, _, rfl⟩
  · simp [polledState, clearedState]
  · obtain ⟨h1, h2, h3, h4, h5, h6, h7, _, h9⟩ := afterExec_frame (consumedState s r) i
    exact ⟨h1, h2, h3, h4, h5, h9, h6, h7⟩

/-- A well-formed configuration in the terms of R3. -/
theorem configOk_iff {c : Params} : configOk c = true ↔ (∀ k, 1 ≤ c.posUnit.get k) ∧ 16 ≤ c.wPos := by
  rw [Axis.forall_iff]
  simp only [configOk, PerAxis.get, Bool.and_eq_true, decide_eq_true_eq, Nat.one_le_iff_ne_zero]
  tauto

end Sys2Proof.Machine
end

