-- ==== Sys2Proof/Laws/Commands.lean ====
section
/-!
SUPPORT. What the command phase of an iteration can do to the axis records, the queues and the trace, said once for
all commands (41_frame_decoder.md R120 to R122, 42_engine.md R142).
-/

namespace Sys2Proof.Machine

/-- The number of running axes as a count over the axes (R143). -/
theorem totalRunning_eq (s : State) :
    totalRunning s = (Axis.all.filter fun j => (axisRec s j).running).length := by
  simp only [totalRunning, Axis.all, List.filter]
  cases (axisRec s .a1).running <;> cases (axisRec s .a2).running <;> cases (axisRec s .a3).running <;>
    cases (axisRec s .a4).running <;> cases (axisRec s .a5).running <;> rfl

/-- The receive queue after a command phase (R120, R121). -/
theorem commandPhase_rx {s u : State} {r} (h : CommandPhase s r u) :
    (s.rx.length = 4 → u.rx = []) ∧ (s.rx.length ≠ 4 → u.rx = s.rx) := by
  rcases commandPhase_cases h with ⟨hn, rfl⟩ | ⟨i, hi, rfl⟩
  · exact ⟨fun h => absurd h hn, fun _ => rfl⟩
  · have := (afterExec_frame (consumedState s r) i).2.2.2.2.2.2.2.1
    exact ⟨fun _ => this, fun h => absurd (length_of_decode hi) h⟩

/-- A command only appends to `tx` and to the trace. -/
theorem afterExec_appends (i : Instr) (s : State) :
    (∃ bs, (afterExec i s).tx = s.tx ++ bs) ∧ ∃ es, (afterExec i s).trace = s.trace ++ es := by
  cases i with
  | stop => rw [afterExec]; exact ⟨⟨_, stop_tx s⟩, ⟨_, stop_trace s⟩⟩
  | reset => rw [afterExec, reset_frame]; simp
  | cal =>
    simp only [afterExec]; split
    · unfold calibrateAxis; dsimp only; split <;> simp
    · simp [withErrorReply]
  | pump =>
    simp only [afterExec]; split
    · rename_i p _; obtain ⟨c, on⟩ := p
      cases c <;> cases on <;> simp [drivePump, PumpChannel.other]
    · simp [withErrorReply]
  | light =>
    simp only [afterExec]; split
    · rename_i l _
      cases l with
      | status st b => cases b <;> simp [driveLight]
      | pixel => simp [driveLight]
    · simp [withErrorReply]
  | move => simp only [afterExec]; split <;> simp [moveAxis, withErrorReply]
  | setp => simp only [afterExec]; split <;> simp [setPeriodAxis, withErrorReply]
  | invalid => simp [afterExec, withErrorReply]

/-- A command phase only appends to `tx`, and to the trace after the events of phase 1 and of the poll. -/
theorem commandPhase_appends {s u : State} {r} (h : CommandPhase s r u) :
    (∃ bs, u.tx = s.tx ++ bs) ∧ ∃ es, u.trace = s.trace ++ clearEvents ++ pollEvents s.rx.length ++ es := by
  rcases commandPhase_cases h with ⟨hn, rfl⟩ | ⟨i, hi, rfl⟩
  · exact ⟨⟨[], by simp [polledState, clearedState]⟩, ⟨[], by simp [polledState, pollEvents, hn]⟩⟩
  · have := afterExec_appends i (consumedState s r)
    rwa [show (consumedState s r).trace = s.trace ++ clearEvents ++ pollEvents s.rx.length by
      simp [consumedState, pollEvents, length_of_decode hi]] at this

/-- The pulses of two event lists in a row. -/
theorem pulseDelays_append (k : Axis) (a b : List Event) :
    pulseDelays k (a ++ b) = pulseDelays k a ++ pulseDelays k b := by
  simp [pulseDelays]

/-- The pulses of one axis in the events of phase 4 for one axis (R144, R147). -/
theorem pulseDelays_phase4 (u : State) (n : Nat) (j k : Axis) :
    pulseDelays k (phase4Events u n j) =
      if j = k ∧ 0 < (axisRec u k).stepsRemaining then [pulseDelay (axisRec u k).periodTicks n] else [] := by
  by_cases h : j = k
  · subst h
    unfold phase4Events; split_ifs <;> simp_all [pulseDelays, stepEvents, doneEvent]
  · unfold phase4Events; split_ifs <;> simp_all [pulseDelays, stepEvents, doneEvent]

/-- The pulses of one axis in the events of phase 4 (R144, R147). -/
theorem pulseDelays_iteration (u : State) (n : Nat) (k : Axis) :
    pulseDelays k (Axis.all.flatMap fun j => phase4Events u n j) =
    if 0 < (axisRec u k).stepsRemaining then [pulseDelay (axisRec u k).periodTicks n] else [] := by
  simp only [Axis.all, List.flatMap_cons, List.flatMap_nil, pulseDelays_append, pulseDelays_phase4]
  cases k <;> simp [pulseDelays]

/-- Completion replies are no pulses. -/
theorem pulseDelays_stop (k : Axis) (l : List Axis) : pulseDelays k (l.map doneEvent) = [] := by
  induction l <;> simp_all [pulseDelays, doneEvent]

/-- Phase 1 makes no pulse. -/
theorem pulseDelays_clear (k : Axis) : pulseDelays k clearEvents = [] := by cases k <;> rfl

/-- A command makes no pulse. -/
theorem afterExec_noPulse (i : Instr) (s : State) (k : Axis) :
    ∃ es, (afterExec i s).trace = s.trace ++ es ∧ pulseDelays k es = [] := by
  cases i with
  | stop => rw [afterExec]; exact ⟨_, stop_trace s, pulseDelays_stop _ _⟩
  | reset => rw [afterExec, reset_frame]; exact ⟨[.ringReset, .statusLed s.cfg.colorUncal], by simp, rfl⟩
  | cal =>
    simp only [afterExec]; split
    · unfold calibrateAxis; dsimp only; split
      · exact ⟨[_], by simp; rfl, rfl⟩
      · exact ⟨[], by simp, rfl⟩
    · exact ⟨_, rfl, rfl⟩
  | pump =>
    simp only [afterExec]; split
    · rename_i p _; obtain ⟨c, on⟩ := p
      cases c <;> cases on <;> simp [drivePump, PumpChannel.other, pulseDelays]
    · exact ⟨_, rfl, rfl⟩
  | light =>
    simp only [afterExec]; split
    · rename_i l _
      cases l with
      | status st b => cases b <;> simp [driveLight, pulseDelays]
      | pixel => simp [driveLight, pulseDelays]
    · exact ⟨_, rfl, rfl⟩
  | move => simp only [afterExec]; split <;> [exact ⟨[], by simp [moveAxis], rfl⟩; exact ⟨_, rfl, rfl⟩]
  | setp => simp only [afterExec]; split <;> [exact ⟨[], by simp [setPeriodAxis], rfl⟩; exact ⟨_, rfl, rfl⟩]
  | invalid => exact ⟨_, rfl, rfl⟩

/-- The poll makes no pulse. -/
theorem pulseDelays_poll (k : Axis) (n : Nat) : pulseDelays k (pollEvents n) = [] := by
  unfold pollEvents; split <;> rfl

/-- A command phase makes no pulse. -/
theorem commandPhase_noPulse {s u : State} {r} (h : CommandPhase s r u) (k : Axis) :
    ∃ es, u.trace = s.trace ++ es ∧ pulseDelays k es = [] := by
  rcases commandPhase_cases h with ⟨hn, rfl⟩ | ⟨i, hi, rfl⟩
  · exact ⟨clearEvents ++ pollEvents s.rx.length, by simp [polledState, pollEvents, hn],
      by rw [pulseDelays_append, pulseDelays_clear, pulseDelays_poll]; rfl⟩
  · obtain ⟨es, h1, h2⟩ := afterExec_noPulse i (consumedState s r) k
    exact ⟨clearEvents ++ pollEvents s.rx.length ++ es,
      by rw [h1]; simp [consumedState, pollEvents, length_of_decode hi],
      by rw [pulseDelays_append, pulseDelays_append, pulseDelays_clear, pulseDelays_poll, h2]; rfl⟩

/-- The pulses of one axis in a whole iteration: at most one (R144, R147). -/
theorem iteration_pulses {s u : State} {r} (h : CommandPhase s r u) (k : Axis) :
    pulseDelays k ((motionPhases u).trace.drop s.trace.length) =
    if 0 < (axisRec u k).stepsRemaining then [pulseDelay (axisRec u k).periodTicks (totalRunning u)] else [] := by
  obtain ⟨es, h1, h2⟩ := commandPhase_noPulse h k
  rw [motionPhases_trace, h1, List.append_assoc, List.drop_left, pulseDelays_append, h2, pulseDelays_iteration]; rfl

/-- Calibrate on the record of any axis (R182). -/
theorem axisRec_calibrate (s : State) (j k : Axis) : axisRec (calibrateAxis j s) k =
    if k = j then { axisRec s k with calibrated := true, expectedPosition := 0 } else axisRec s k := by
  have : (calibrateAxis j s).axes = s.axes.set j { axisRec s j with calibrated := true, expectedPosition := 0 } := by
    unfold calibrateAxis; dsimp only; split <;> simp
  simp only [axisRec, this, PerAxis.get_set]
  split_ifs with h
  · subst h; rfl
  · rfl

/-- Pump writes no axis record (R224). -/
theorem axisRec_drivePump (s : State) (p : PumpCmd) (k : Axis) : axisRec (drivePump p s) k = axisRec s k := by
  obtain ⟨c, on⟩ := p
  cases c <;> cases on <;> simp [drivePump, PumpChannel.other, axisRec]

/-- Light writes no axis record (R224). -/
theorem axisRec_driveLight (s : State) (l : LightCmd) (k : Axis) : axisRec (driveLight l s) k = axisRec s k := by
  cases l with
  | status st b => cases b <;> simp [driveLight, axisRec]
  | pixel => simp [driveLight, axisRec]

/-- Everything a command can do to the record of an axis. -/
theorem axisRec_afterExec (i : Instr) (s : State) (k : Axis) :
    axisRec (afterExec i s) k = axisRec s k ∨
    axisRec (afterExec i s) k = { axisRec s k with stepsRemaining := 0, correcting := false, running := false } ∨
    axisRec (afterExec i s) k = { axisRec s k with calibrated := true, expectedPosition := 0 } ∨
    (∃ (dir : Bool) (n : BitVec 15), axisRec (afterExec i s) k =
      { axisRec s k with direction := dir, stepsRemaining := n.toNat, running := true, correcting := false }) ∨
    (∃ v, axisRec (afterExec i s) k = { axisRec s k with periodTicks := v }) ∨
    axisRec (afterExec i s) k = { axisRec s k with
          calibrated := false, targetPosition := 0, expectedPosition := 0, encoderPosition := 0,
          stepsRemaining := 0, direction := false, correcting := false, running := false } := by
  cases i with
  | stop => exact .inr (.inl (axisRec_stop s k))
  | reset => exact .inr (.inr (.inr (.inr (.inr (axisRec_reset s k)))))
  | cal =>
    simp only [afterExec]; split
    · rw [axisRec_calibrate]; split_ifs
      · exact .inr (.inr (.inl rfl))
      · exact .inl rfl
    · exact .inl rfl
  | pump => simp only [afterExec]; split <;> [exact .inl (axisRec_drivePump _ _ _); exact .inl rfl]
  | light => simp only [afterExec]; split <;> [exact .inl (axisRec_driveLight _ _ _); exact .inl rfl]
  | move sel dir n =>
    simp only [afterExec]; split
    · rename_i j _
      by_cases h : k = j
      · subst h; exact .inr (.inr (.inr (.inl ⟨dir, n, by simp [moveAxis]⟩)))
      · exact .inl (by simp [moveAxis, axisRec_setAxisRec_ne _ _ h])
    · exact .inl rfl
  | setp =>
    simp only [afterExec]; split
    · rename_i j _
      by_cases h : k = j
      · subst h; exact .inr (.inr (.inr (.inr (.inl ⟨_, by simp [setPeriodAxis]; rfl⟩))))
      · exact .inl (by simp [setPeriodAxis, axisRec_setAxisRec_ne _ _ h])
    · exact .inl rfl
  | invalid => exact .inl rfl

/-- Everything a command phase can do to the record of an axis. -/
theorem commandPhase_rec {s u : State} {r} (h : CommandPhase s r u) (k : Axis) :
    axisRec u k = axisRec s k ∨
    axisRec u k = { axisRec s k with stepsRemaining := 0, correcting := false, running := false } ∨
    axisRec u k = { axisRec s k with calibrated := true, expectedPosition := 0 } ∨
    (∃ (dir : Bool) (n : BitVec 15), axisRec u k =
      { axisRec s k with direction := dir, stepsRemaining := n.toNat, running := true, correcting := false }) ∨
    (∃ v, axisRec u k = { axisRec s k with periodTicks := v }) ∨
    axisRec u k = { axisRec s k with
          calibrated := false, targetPosition := 0, expectedPosition := 0, encoderPosition := 0,
          stepsRemaining := 0, direction := false, correcting := false, running := false } := by
  rcases commandPhase_cases h with ⟨hn, rfl⟩ | ⟨i, hi, rfl⟩
  · exact .inl rfl
  · exact axisRec_afterExec i (consumedState s r) k

/-- What of R34 and R35 a command phase keeps: a Move of count 0 leaves its axis running without steps. -/
theorem commandPhase_pass {s u : State} {r} (hs : PassInv s) (h : CommandPhase s r u) (k : Axis) :
    (0 < (axisRec u k).stepsRemaining → (axisRec u k).running = true) ∧
    ((axisRec u k).correcting = true → 0 < (axisRec u k).stepsRemaining) := by
  obtain ⟨h1, h2⟩ := hs k
  rcases commandPhase_rec h k with e | e | e | ⟨d, n, e⟩ | ⟨v, e⟩ | e <;> rw [e] <;> simp_all

end Sys2Proof.Machine
end

