-- ==== Sys2Proof/Laws/Decode.lean ====
section
/-!
SUPPORT. Arithmetic of the Move operand: the high byte splits into its direction bit and its low seven bits
(30_encoding.md R82, R91).
-/

namespace Sys2Proof.Machine

/-- The direction bit and the seven count bits of a high byte put together from them. -/
theorem moveHigh_parts (d : Bool) (x : Fin 128) :
    moveDir ((if d then 0x80#8 else 0x00#8) ||| BitVec.ofNat 8 x) = d ∧
      (((if d then 0x80#8 else 0x00#8) ||| BitVec.ofNat 8 x) &&& 0x7F#8).toNat = x := by
  revert d x; decide

/-- The direction read from an encoded Move is the one encoded (R82, R91). -/
theorem moveHigh_dir (d : Bool) (c : BitVec 15) : moveDir (moveHighByte d c) = d :=
  (moveHigh_parts d ⟨c.toNat / 256, by have := c.isLt; omega⟩).1

/-- The count read from an encoded Move is the one encoded (R82, R91). -/
theorem moveHigh_count (d : Bool) (c : BitVec 15) : moveCount (moveHighByte d c) (moveLowByte c) = c := by
  have h := (moveHigh_parts d ⟨c.toNat / 256, by have := c.isLt; omega⟩).2
  unfold moveCount moveHighByte moveLowByte
  rw [h]
  apply BitVec.eq_of_toNat_eq
  have := c.isLt
  simp
  omega

/-- A byte is its direction bit and its low seven bits put together. -/
theorem moveByte_parts (p2 : Byte) :
    (p2 &&& 0x7F#8).toNat = p2.toNat % 128 ∧ moveDir p2 = decide (128 ≤ p2.toNat) ∧
      ((if moveDir p2 then 0x80#8 else 0x00#8) ||| BitVec.ofNat 8 (p2.toNat % 128)) = p2 := by
  revert p2; decide

/-- The count of a Move as a number (R82). -/
theorem moveCount_toNat (p2 p3 : Byte) : (moveCount p2 p3).toNat = (p2.toNat % 128) * 256 + p3.toNat := by
  unfold moveCount
  rw [(moveByte_parts p2).1]
  simp
  have := p3.isLt
  omega

end Sys2Proof.Machine
end

