-- ==== Sys2Proof/Laws/Interleave.lean ====
section
/-!
SUPPORT. Steps of different agents against each other: what a loop over the axes commutes with, and the parts of the
state that no command reads (20_memory.md R66).
-/

namespace Sys2Proof.Machine

/-- What every body of the loop commutes with, the loop commutes with. -/
theorem forEachAxis_commutes {body : Axis → State → State} {F : State → State}
    (h : ∀ k t, body k (F t) = F (body k t)) (s : State) :
    forEachAxis body (F s) = F (forEachAxis body s) := by simp [forEachAxis, h]

/-- What every body of the loop does not read, the loop does not read. -/
theorem forEachAxis_hidden {body : Axis → State → State} {F : State → State}
    (h : ∀ k t, F (body k (F t)) = F (body k t)) (s : State) :
    F (forEachAxis body (F s)) = F (forEachAxis body s) := by
  have e : ∀ k t u, F t = F u → F (body k t) = F (body k u) := fun k t u htu => by rw [← h k t, ← h k u, htu]
  have e0 : F (body .a1 (F s)) = F (body .a1 s) := h _ _
  unfold forEachAxis
  exact e _ _ _ (e _ _ _ (e _ _ _ (e _ _ _ e0)))

/-- `t` with other counters, another overflow mark and other turns. -/
def overlay (E : PerAxis Int) (M : Bool) (R : List Turn) (t : State) : State :=
  { t with enc := E, posOverflow := M, turns := R }

/-- No command reads or writes a counter, the overflow mark or the turns (R38, R48). -/
theorem afterExec_overlay (i : Instr) (E M R) (t : State) :
    afterExec i (overlay E M R t) = overlay E M R (afterExec i t) := by
  cases i with
  | stop =>
    exact forEachAxis_commutes (body := stopAxis) (F := overlay E M R)
      (fun k t => by rw [stopAxis_eq, stopAxis_eq]; rfl) t
  | reset =>
    have := forEachAxis_commutes (body := resetAxis) (F := overlay E M R) (fun k t => rfl) t
    simp only [afterExec, this]; rfl
  | cal =>
      simp only [afterExec, overlay]; cases axisOf t.cfg _ with
      | none => rfl
      | some j =>
        simp only [calibrateAxis]
        have : ∀ x, allFiveCalibrated (setAxisRec j x { t with enc := E, posOverflow := M, turns := R }) =
            allFiveCalibrated (setAxisRec j x t) := fun _ => rfl
        simp only [this]
        have : axisRec { t with enc := E, posOverflow := M, turns := R } j = axisRec t j := rfl
        simp only [this]
        split <;> rfl
  | pump =>
      simp only [afterExec, overlay]; cases pumpDecode t.cfg _ _ _ with
      | none => rfl
      | some p => obtain ⟨ch, on⟩ := p; cases ch <;> cases on <;> rfl
  | light =>
      simp only [afterExec, overlay]; cases lightDecode t.cfg _ _ _ with
      | none => rfl
      | some l =>
        cases l with
        | status st b => cases b <;> rfl
        | pixel => rfl
  | move => simp only [afterExec, overlay]; cases axisOf t.cfg _ <;> rfl
  | setp => simp only [afterExec, overlay]; cases axisOf t.cfg _ <;> rfl
  | invalid => rfl

/-- No command phase reads or writes a counter or the overflow mark. -/
theorem commandPhase_overlay {s u : State} {r} (E M R) (h : CommandPhase { s with turns := .engine :: r } r u) :
    CommandPhase (overlay E M (.engine :: R) s) R (overlay E M R u) := by
  obtain ⟨he, hc, h⟩ := h
  refine ⟨.inr rfl, hc, ?_⟩
  rcases h with ⟨hn, rfl⟩ | ⟨i, hi, hx⟩
  · exact .inl ⟨hn, rfl⟩
  · refine .inr ⟨i, hi, ?_⟩
    rw [exec_eq] at hx ⊢; injection hx with hx; subst hx
    rw [← afterExec_overlay]; rfl

/-- Phases 3 and 4 do not read the turns. -/
theorem motion_overlay_turns (R) (s : State) :
    motionPhases { s with turns := R } = { motionPhases s with turns := R } := by
  have : totalRunning { s with turns := R } = totalRunning s := rfl
  rw [motionPhases_eq, motionPhases_eq, this]
  exact forEachAxis_commutes (F := fun t => { t with turns := R }) (fun k t => rfl) s

/-- A function that does not read what `hide` erases respects equality of what is left. -/
theorem of_hidden {hide f : State → State} (h : ∀ s, hide (f (hide s)) = hide (f s))
    (a b : State) (hab : hide a = hide b) : hide (f a) = hide (f b) := by
  rw [← h a, ← h b, hab]

/-- A step does not read what `hide` erases when none of its parts does. -/
theorem hide_step (hide : State → State)
    (hcfg : ∀ s, configOk (hide s).cfg = configOk s.cfg)
    (hturns : ∀ s, (hide s).turns = s.turns) (hrx : ∀ s, (hide s).rx = s.rx)
    (hset : ∀ s r, hide { s with turns := r } = { hide s with turns := r })
    (hpolled : ∀ s r, hide (polledState (hide s) r) = hide (polledState s r))
    (hconsumed : ∀ s r, hide (consumedState (hide s) r) = hide (consumedState s r))
    (hexec : ∀ i a b, hide a = hide b → hide (afterExec i a) = hide (afterExec i b))
    (hmot : ∀ a b, hide a = hide b → hide (motionPhases a) = hide (motionPhases b))
    (hag : ∀ m s, hide (agentStep m (hide s)) = hide (agentStep m s)) :
    ∀ s t : State, step s = .next t → ∃ t', step (hide s) = .next t' ∧ hide t' = hide t := by
  intro s t ht
  obtain ⟨hc, ⟨r, u, hu, rfl⟩ | ⟨m, r, hm, rfl⟩⟩ := step_cases ht
  · have he : EngineNext (hide s) r := by unfold EngineNext; rw [hturns]; exact hu.1
    have hc' : configOk (hide s).cfg = true := by rw [hcfg]; exact hc
    rcases commandPhase_cases hu with ⟨hn, rfl⟩ | ⟨i, hi, rfl⟩
    · exact ⟨_, step_of_commandPhase ⟨he, hc', .inl ⟨by rw [hrx]; exact hn, rfl⟩⟩, hmot _ _ (hpolled s r)⟩
    · exact ⟨_, step_of_commandPhase ⟨he, hc', .inr ⟨i, by rw [hrx]; exact hi, exec_eq _ _⟩⟩,
        hmot _ _ (hexec _ _ _ (hconsumed s r))⟩
  · refine ⟨_, step_other (by rw [hcfg]; exact hc) (by rw [hturns]; exact hm), ?_⟩
    rw [← hset]; exact hag m _

end Sys2Proof.Machine
end

