-- ==== Sys2Proof/Laws/PerInstr.lean ====
section
/-!
SUPPORT. The per-instruction family FrameLength: every command frame is exactly four bytes (30_encoding.md R80).
-/

namespace Sys2Proof.Laws.FrameLength

/-- The encoding of `i` is four bytes long. -/
def Statement (i : Instr) : Prop := (encode i).length = 4

theorem stop (p1 p2 p3 : Byte) : Statement (.stop p1 p2 p3) := rfl

theorem cal (sel p2 p3 : Byte) : Statement (.cal sel p2 p3) := rfl

theorem move (sel : Byte) (dir : Bool) (count : BitVec 15) : Statement (.move sel dir count) := rfl

theorem pump (p1 p2 p3 : Byte) : Statement (.pump p1 p2 p3) := rfl

theorem light (p1 p2 p3 : Byte) : Statement (.light p1 p2 p3) := rfl

theorem setp (p1 p2 p3 : Byte) : Statement (.setp p1 p2 p3) := rfl

theorem reset (p1 p2 p3 : Byte) : Statement (.reset p1 p2 p3) := rfl

theorem invalid (b1 p1 p2 p3 : Byte) : Statement (.invalid b1 p1 p2 p3) := rfl

end Sys2Proof.Laws.FrameLength
end

