-- ==== Sys2Proof/Laws/Range.lean ====
section
/-!
SUPPORT. Wrapping and the signed range (00_scope.md R5, 10_state.md R37).
-/

namespace Sys2Proof.Machine

/-- A wrapped value is in range (R5). -/
theorem wrapS_inSigned {n : Nat} (h : 1 ≤ n) (v : Int) : InSigned n (wrapS n v) := by
  obtain ⟨m, rfl⟩ : ∃ m, n = m + 1 := ⟨n - 1, by omega⟩
  have hp : (0 : Nat) < 2 ^ (m + 1) := by positivity
  have h1 := Int.le_bmod (x := v) hp
  have h2 := Int.bmod_lt (x := v) hp
  have e : (2 ^ (m + 1) : Nat) = 2 * 2 ^ m := by ring
  have e' : ((2 ^ m : Nat) : Int) = (2 : Int) ^ m := by push_cast; ring
  unfold InSigned wrapS
  simp only [Nat.add_sub_cancel]
  rw [← e']
  push_cast [e] at h1 h2
  rw [e] at *
  push_cast at *
  constructor <;> omega

/-- A value in range wraps to itself (R5). -/
theorem wrapS_of_inSigned {n : Nat} (h : 1 ≤ n) {v : Int} (hv : InSigned n v) : wrapS n v = v := by
  obtain ⟨m, rfl⟩ : ∃ m, n = m + 1 := ⟨n - 1, by omega⟩
  unfold InSigned at hv
  simp only [Nat.add_sub_cancel] at hv
  unfold wrapS
  have e : (2 ^ (m + 1) : Nat) = 2 * 2 ^ m := by ring
  have e' : ((2 ^ m : Nat) : Int) = (2 : Int) ^ m := by push_cast; ring
  rw [← e'] at hv
  apply Int.bmod_eq_of_le <;> rw [e] <;> push_cast at * <;> omega

/-- Wrapping inside a sum changes nothing. -/
theorem wrapS_add_wrapS (n : Nat) (v w : Int) : wrapS n (wrapS n v + w) = wrapS n (v + w) := by
  simp [wrapS]

/-- The wrapped value is congruent to the exact one (R5). -/
theorem wrapS_dvd (n : Nat) (v : Int) : (2 ^ n : Int) ∣ v - wrapS n v := by
  have := Int.dvd_self_sub_bmod (x := v) (m := 2 ^ n)
  simpa [wrapS] using this

/-- The overflow test is being outside the range (R37). -/
theorem outsideSigned_iff {n : Nat} {v : Int} : outsideSigned n v = true ↔ ¬InSigned n v := by
  simp only [outsideSigned, InSigned, Bool.or_eq_true, decide_eq_true_eq]
  constructor
  · rintro (h | h) ⟨h1, h2⟩ <;> linarith
  · intro h
    by_contra hc
    push Not at hc
    exact h ⟨hc.1, hc.2⟩

/-- Zero is in range. -/
theorem inSigned_zero (n : Nat) : InSigned n 0 := by
  have h : (0 : Int) < 2 ^ (n - 1) := by positivity
  exact ⟨by linarith, h⟩

/-- The exact distance of two values in range fits the unsigned width (R151). -/
theorem distance_lt {n : Nat} (h : 1 ≤ n) {v w : Int} (hv : InSigned n v) (hw : InSigned n w) :
    (v - w).natAbs < 2 ^ n := by
  obtain ⟨m, rfl⟩ : ∃ m, n = m + 1 := ⟨n - 1, by omega⟩
  unfold InSigned at hv hw
  simp only [Nat.add_sub_cancel] at hv hw
  have e : (2 ^ (m + 1) : Nat) = 2 * 2 ^ m := by ring
  have e' : ((2 ^ m : Nat) : Int) = (2 : Int) ^ m := by push_cast; ring
  rw [← e'] at hv hw
  rw [e]
  omega

end Sys2Proof.Machine
end

