-- ==== Sys2Proof/Laws/Run.lean ====
section
/-!
SUPPORT. Runs of the machine: one more step is made from where a run has come (60_exceptions.md R253).
-/

namespace Sys2Proof.Machine

/-- A run of `n + 1` steps is the step after a run of `n`. -/
theorem core_run_succ (n : Nat) (s t : Sys2Proof.core.State) (h : Sys2Proof.core.run n s = .next t) :
    Sys2Proof.core.run (n + 1) s = Sys2Proof.core.step t := by
  induction n generalizing s with
  | zero =>
    obtain rfl : s = t := by simpa [Host.Core.run] using h
    simp only [Host.Core.run]
    cases Sys2Proof.core.step s <;> rfl
  | succ n ih =>
    unfold Host.Core.run at h
    cases hs : Sys2Proof.core.step s with
    | next s' =>
      rw [hs] at h
      rw [← ih s' h]
      conv => lhs; unfold Host.Core.run
      simp only [hs]
    | fault r => rw [hs] at h; cases h
    | refused r => rw [hs] at h; cases h

end Sys2Proof.Machine
end

