-- ==== Sys2Proof/Tests/Slice0.lean ====
section
/-!
SUPPORT. Small tests of single steps, with expected results from 95_test_vectors.md, and a witness for the hypotheses
of every statement of Certificates/Slice0/Obligations.lean.
-/

namespace Sys2Proof.Tests

open Sys2Proof.Machine

/-! ### The bench -/

/-- The bench configuration: defaults of 00_scope.md section 4 and a value for each OPEN parameter. -/
def bench : Params where
  wPos := 32
  encInc := 4
  posUnit := { v1 := 16, v2 := 1, v3 := 16, v4 := 4, v5 := 1 }
  axisSelBase := 0x00#8
  dirFwdLevel := true
  periodInit := { v1 := 1000#16, v2 := 600#16, v3 := 1000#16, v4 := 0#16, v5 := 65535#16 }
  microstepInit := PerAxis.of fun _ => 8
  errThrInit := PerAxis.of fun _ => 100
  periodTable := []
  pumpTable := []
  lightTable :=
    [((0x01#8, 0x00#8, 0x00#8), .status .done false), ((0x02#8, 0x00#8, 0x00#8), .status .clearUncalibrated true),
     ((0x03#8, 0x10#8, 0x20#8), .pixel 3 0x10#8 0x20#8 0x30#8 true)]
  colorUncal := { red := true, green := false, blue := false }
  colorCal := { red := false, green := true, blue := false }
  colorDone := { red := false, green := false, blue := true }
  tHigh := 5
  tLow := 7

/-- The bench at power-on. -/
def idle : State := powerOn bench

/-- `s` with four bytes waiting in the receive queue. -/
def send (b1 p1 p2 p3 : Byte) (s : State) : State := { s with rx := [b1, p1, p2, p3] }

/-- `s` with the record of axis `k` changed. -/
def withAxis (k : Axis) (f : MotorAxis → MotorAxis) (s : State) : State := setAxisRec k (f (axisRec s k)) s

/-- A pass of `n` steps. -/
def pass (dir corr : Bool) (n : Nat) (a : MotorAxis) : MotorAxis :=
  { a with direction := dir, correcting := corr, running := true, stepsRemaining := n }

/-- Axis 1 moves forward with 5 steps left, axis 2 corrects with 2 left, axis 3 moves forward with 1 left, axis 4 is
idle, axis 5 corrects with 1 left. -/
def busy : State :=
  withAxis .a1 (pass true false 5) (withAxis .a2 (pass false true 2) (withAxis .a3 (pass true false 1)
    (withAxis .a5 (pass true true 1) idle)))

/-- What can be seen of the state an outcome goes on with. -/
def seen {α : Type} (f : State → α) : Host.Outcome State Fault Refusal → Option α
  | .next t => some (f t)
  | _ => none

/-- The outcome is a next state, and it passes the check `p`. -/
def after (o : Host.Outcome State Fault Refusal) (p : State → Bool) : Bool := (seen p o).getD false

/-- The four motion fields of an axis: direction, correcting, running, steps left. -/
def motion (k : Axis) (t : State) : Bool × Bool × Bool × Nat :=
  ((axisRec t k).direction, (axisRec t k).correcting, (axisRec t k).running, (axisRec t k).stepsRemaining)

/-- The events of a trace that are neither pin events nor the poll's calls. -/
def calls (t : State) : List Event :=
  t.trace.filter fun e => match e with
    | .pinSet _ _ _ => false
    | .rxCount => false
    | .rxPop => false
    | _ => true

/-- The poll's calls of a trace (R251). -/
def pollCalls (t : State) : List Event := t.trace.filter fun e => e = .rxCount || e = .rxPop

/-! ### Well-formedness and decoding -/

/-- An `invalid` with any of the seven opcode bytes is ill formed (R87). -/
theorem test_wf_refuses_opcodes :
    ([0x53#8, 0x43#8, 0x4D#8, 0x50#8, 0x4C#8, 0x44#8, 0x52#8] : List Byte).all
      (fun b => !(Instr.invalid b 0#8 0#8 0#8).wf) = true := by decide

/-- V12: these bytes are no opcode. -/
theorem test_wf_accepts_other_bytes :
    ([0x73#8, 0x6D#8, 0x00#8, 0x58#8, 0xFF#8] : List Byte).all (fun b => (Instr.invalid b 0#8 0#8 0#8).wf) = true := by
  decide

/-- R86: 0x53 is 0101 0011. -/
theorem test_decode_stop : decode [0b01010011#8, 1#8, 2#8, 3#8] = .ok (.stop 1#8 2#8 3#8, []) := by decide

/-- R86: 0x43 is 0100 0011. -/
theorem test_decode_cal : decode [0b01000011#8, 3#8, 0#8, 0#8] = .ok (.cal 3#8 0#8 0#8, []) := by decide

/-- V10: direction 1, count 000 0001 0010 1100 is 300. -/
theorem test_decode_move :
    decode [0b01001101#8, 2#8, 0b10000001#8, 0b00101100#8] = .ok (.move 2#8 true 300#15, []) := by decide

/-- V10: 0x7F 0xFF is reverse 32767, and 0x01 0x00 is reverse 256. -/
theorem test_decode_move_reverse :
    decode [0b01001101#8, 1#8, 0b01111111#8, 0b11111111#8, 9#8] = .ok (.move 1#8 false 32767#15, [9#8]) ∧
    decode [0b01001101#8, 1#8, 0b00000001#8, 0b00000000#8] = .ok (.move 1#8 false 256#15, []) := by decide

/-- R86: 0x50 is 0101 0000. -/
theorem test_decode_pump : decode [0b01010000#8, 1#8, 1#8, 0#8] = .ok (.pump 1#8 1#8 0#8, []) := by decide

/-- R86: 0x4C is 0100 1100. -/
theorem test_decode_light : decode [0b01001100#8, 3#8, 16#8, 32#8] = .ok (.light 3#8 16#8 32#8, []) := by decide

/-- R86: 0x44 is 0100 0100. -/
theorem test_decode_setp : decode [0b01000100#8, 1#8, 3#8, 232#8] = .ok (.setp 1#8 3#8 232#8, []) := by decide

/-- R86: 0x52 is 0101 0010. -/
theorem test_decode_reset : decode [0b01010010#8, 0#8, 0#8, 0#8] = .ok (.reset 0#8 0#8 0#8, []) := by decide

/-- V12: lower-case `s` is Invalid. -/
theorem test_decode_invalid :
    decode [0b01110011#8, 0#8, 0#8, 0#8] = .ok (.invalid 0x73#8 0#8 0#8 0#8, []) := by decide

/-- R91: `MOVE 2, FWD, 300` is 4D 02 81 2C, and `MOVE 1, REV, 2` is 4D 01 00 02 (V1, V24). -/
theorem test_encode_move :
    encode (.move 2#8 true 300#15) = [0x4D#8, 0x02#8, 0x81#8, 0x2C#8] ∧
    encode (.move 1#8 false 2#15) = [0x4D#8, 0x01#8, 0x00#8, 0x02#8] := by decide

/-- R81: the opcode byte is bits 31:24 of the table's word, p3 is bits 7:0; V13: three bytes are no frame. -/
theorem test_table_word :
    decodeTableWord 32 0x4D02812C = some (.move 2#8 true 300#15) ∧
    decodeTableWord 32 0x440103E8 = some (.setp 1#8 3#8 0xE8#8) ∧
    decode [0x4D#8, 0x02#8, 0x81#8] = .error .incompleteFrame := by decide

/-! ### Commands -/

/-- V25: axes 2 and 4 running, 4 correcting: replies `A200`, `A400`, both idle. -/
theorem test_stop_two_axes :
    let s := send 0x53#8 0#8 0#8 0#8 (withAxis .a2 (pass true false 7) (withAxis .a4 (pass false true 9) idle))
    after (step s) (fun t =>
      t.tx == [0x41#8, 0x32#8, 0x30#8, 0x30#8, 0x41#8, 0x34#8, 0x30#8, 0x30#8] &&
      motion .a2 t == (true, false, false, 0) &&
      motion .a4 t == (false, false, false, 0)) = true := by
  dsimp only; decide

/-- V26: `CAL 3` with the other four calibrated sends COLOR_CAL. -/
theorem test_cal_last_axis :
    let cal := fun (a : MotorAxis) => { a with calibrated := true }
    let s := send 0x43#8 3#8 0#8 0#8
      (withAxis .a1 cal (withAxis .a2 cal (withAxis .a4 cal (withAxis .a5 cal idle))))
    after (step s) (fun t =>
      t.allCalibrated == true &&
      t.statusLed == bench.colorCal &&
      calls t == [.statusLed bench.colorCal]) = true := by
  dsimp only; decide

/-- V26: `CAL 2` of a moving axis zeroes its estimate and the pass goes on. -/
theorem test_cal_while_moving :
    let s := withAxis .a2 (fun a => { pass true false 4 a with expectedPosition := 80 }) idle
    after (exec (.cal 2#8 0#8 0#8) s) (fun t =>
      (axisRec t .a2).expectedPosition == 0 &&
      motion .a2 t == (true, false, true, 4) &&
      t.allCalibrated == false &&
      t.trace == []) = true := by
  dsimp only; decide

/-- V3: `MOVE 1, FWD, 1` with the encoder at 4 finishes without a correction: expected 16, `A100`. -/
theorem test_move_small_error :
    let s := send 0x4D#8 1#8 0x80#8 1#8 { idle with enc := idle.enc.set .a1 4 }
    after (step s) (fun t =>
      (axisRec t .a1).expectedPosition == 16 &&
      (axisRec t .a1).encoderPosition == 4 &&
      motion .a1 t == (true, false, false, 0) &&
      t.tx == [0x41#8, 0x31#8, 0x30#8, 0x30#8]) = true := by
  dsimp only; decide

/-- V24: a Move replaces a correction in progress. -/
theorem test_move_replaces_pass :
    let s := withAxis .a1 (pass true true 10) idle
    after (exec (.move 1#8 false 2#15) s) (fun t =>
      motion .a1 t == (false, false, true, 2) &&
      t.tx == []) = true := by
  dsimp only; decide

/-- V27: `SETP 1, 1000` and `SETP 3, 65535`. -/
theorem test_setp_value :
    seen (fun t => (axisRec t .a1).periodTicks) (exec (.setp 1#8 3#8 0xE8#8) idle) = some 1000#16 ∧
    seen (fun t => (axisRec t .a3).periodTicks) (exec (.setp 3#8 0xFF#8 0xFF#8) idle) = some 65535#16 := by decide

/-- V27: selector 6 is an error, V11: so are 0, 0x31 and 0xFF. -/
theorem test_setp_bad_selector :
    ([0#8, 6#8, 0x31#8, 0xFF#8] : List Byte).all (fun b =>
      after (exec (.setp b 3#8 0xE8#8) idle) (fun t =>
        t.tx == [0x45#8, 0x30#8, 0x31#8, 0x30#8] && t.axes == idle.axes)) = true := by decide

/-- V28: Reset stops axes without a reply, keeps the counter, the period and the pump. -/
theorem test_reset_keeps_counter :
    let s := send 0x52#8 0#8 0#8 0#8
      { withAxis .a1 (pass true false 3) idle with enc := idle.enc.set .a1 64, pump1On := true, allCalibrated := true }
    after (step s) (fun t =>
      motion .a1 t == (false, false, false, 0) &&
      t.allCalibrated == false &&
      t.enc.get .a1 == 64 &&
      (axisRec t .a1).periodTicks == 1000#16 &&
      t.pump1On == true &&
      t.tx == [] &&
      calls t == [.ringReset, .statusLed bench.colorUncal]) = true := by
  dsimp only; decide

/-- V29: `PUMP 2, 1, 0` with pump 1 on. -/
theorem test_pump_switches_over :
    after (exec (.pump 2#8 1#8 0#8) { idle with pump1On := true }) (fun t =>
      t.pump1On == false &&
      t.pump2On == true &&
      t.trace == [.pumpSet .pump1 false, .pumpSet .pump2 true]) = true := by decide

/-- V29: `PUMP 2, 0, 0` with pump 2 on, and channel 3 is an error. -/
theorem test_pump_off_and_error :
    after (exec (.pump 2#8 0#8 0#8) { idle with pump2On := true }) (fun t =>
      t.pump1On == false &&
      t.pump2On == false &&
      t.trace == [.pumpSet .pump2 false]) = true ∧
    seen (·.tx) (exec (.pump 3#8 1#8 0#8) idle) = some [0x45#8, 0x30#8, 0x31#8, 0x30#8] := by decide

/-- V30: a status command with and without the ring reset. -/
theorem test_light_status :
    after (exec (.light 1#8 0#8 0#8) idle) (fun t =>
      t.statusLed == bench.colorDone &&
      t.trace == [.statusLed bench.colorDone]) = true ∧
    seen (·.trace) (exec (.light 2#8 0#8 0#8) idle) = some [.ringReset, .statusLed bench.colorUncal] := by decide

/-- V30: a pixel command, and `None`. -/
theorem test_light_pixel_and_none :
    after (exec (.light 3#8 0x10#8 0x20#8) idle) (fun t =>
      t.statusLed == bench.colorUncal &&
      t.trace == [.ringPixel 3 0x10#8 0x20#8 0x30#8, .ringPush true]) = true ∧
    seen (·.tx) (exec (.light 9#8 9#8 9#8) idle) = some [0x45#8, 0x30#8, 0x31#8, 0x30#8] := by decide

/-- V31: an Invalid frame's `E010` comes before the completion reply of the same iteration. -/
theorem test_invalid_reply_order :
    let s := send 0x58#8 0#8 0#8 0#8 { withAxis .a4 (pass true false 1) idle with enc := idle.enc.set .a4 4 }
    after (step s) (fun t =>
      t.tx == [0x45#8, 0x30#8, 0x31#8, 0x30#8, 0x41#8, 0x34#8, 0x30#8, 0x30#8] &&
      (axisRec t .a4).expectedPosition == 4) = true := by
  dsimp only; decide

/-! ### Engine, Trackers, poll -/

/-- V22 rows 1, 2, 5, 6, 8: the correction pass that starts (direction, steps); V22 row 3, 7: none starts. -/
theorem test_completion_rows :
    let row := fun (k : Axis) (corr : Bool) (x e : Int) =>
      motion k (complete k { withAxis k (fun a => { pass true corr 0 a with expectedPosition := x }) idle with
        enc := idle.enc.set k e })
    row .a1 false 48 32 = (true, true, true, 1) ∧ row .a1 false 0 33 = (false, true, true, 2) ∧
    row .a1 false 16 0 = (true, true, true, 1) ∧ row .a2 false (-5) 3 = (false, true, true, 8) ∧
    row .a2 false (2 ^ 31 - 1) (-2 ^ 31) = (true, true, true, 2 ^ 32 - 1) ∧
    row .a1 false 15 0 = (true, false, false, 0) ∧ row .a1 true 48 0 = (true, false, false, 0) := by
  dsimp only; decide

/-- P3 iteration 2: with two axes running the delays are 1000/2 and 600/2, and both passes hand over. -/
theorem test_timing_division :
    let s := send 0x4D#8 2#8 0#8 1#8 (withAxis .a1 (pass true false 1) idle)
    after (step s) (fun t =>
      pulseDelays .a1 t.trace == [500] &&
      pulseDelays .a2 t.trace == [300] &&
      motion .a2 t == (false, true, true, 1) &&
      (axisRec t .a2).expectedPosition == (-1) &&
      t.tx == []) = true := by
  dsimp only; decide

/-- V21: the estimate wraps and the overflow mark is set; in reverse with unit 1 it goes to -1. -/
theorem test_estimate_wraps :
    let s := withAxis .a1 (fun a => { pass true false 9 a with expectedPosition := 2 ^ 31 - 16 }) idle
    after (step s) (fun t =>
      (axisRec t .a1).expectedPosition == (-2 ^ 31) &&
      t.posOverflow == true) = true := by
  dsimp only; decide

/-- V14, V15: a forward A edge from 2^31 - 4 wraps and marks; a reverse B edge from 100 gives 96. -/
theorem test_tracker_edges :
    let s1 := { idle with
      enc := idle.enc.set .a1 (2 ^ 31 - 4), encA := idle.encA.set .a1 true, turns := [.other (.trackerEdge .a1 .chA)] }
    let s2 := { idle with
      enc := idle.enc.set .a5 100, encB := idle.encB.set .a5 true, turns := [.other (.trackerEdge .a5 .chB)] }
    after (step s1) (fun t =>
      t.enc.get .a1 == (-2 ^ 31) &&
      t.posOverflow == true &&
      t.turns == []) = true ∧
    after (step s2) (fun t =>
      t.enc.get .a5 == 96 &&
      t.posOverflow == false) = true := by
  dsimp only; decide

/-- V14: the eight rows of the direction table. -/
theorem test_direction_table :
    (forwardEdge .chA true false && forwardEdge .chA false true && !forwardEdge .chA true true &&
      !forwardEdge .chA false false && forwardEdge .chB true true && forwardEdge .chB false false &&
      !forwardEdge .chB false true && !forwardEdge .chB true false) = true := by decide

/-- V13: five bytes stall the decoder. -/
theorem test_stall :
    seen (·.rx) (step { idle with rx := [0x4D#8, 0x02#8, 0x81#8, 0x2C#8, 0x53#8] }) =
      some [0x4D#8, 0x02#8, 0x81#8, 0x2C#8, 0x53#8] := by decide

/-- R120, R121, R251: one count and four pops when a frame is consumed, one count when five bytes wait. -/
theorem test_poll_calls :
    seen pollCalls (step (send 0x53#8 0#8 0#8 0#8 idle)) = some [.rxCount, .rxPop, .rxPop, .rxPop, .rxPop] ∧
    seen pollCalls (step { idle with rx := [1#8, 2#8, 3#8, 4#8, 5#8] }) = some [.rxCount] := by decide

/-- R3: POS_UNIT 0 and W_POS 15 are refused. -/
theorem test_ill_formed_refused :
    (match step { idle with cfg := { bench with wPos := 15 } } with
      | .refused .illFormedConfig => true
      | _ => false) = true ∧
    (match step { idle with cfg := { bench with posUnit := bench.posUnit.set .a5 0 } } with
      | .refused .illFormedConfig => true
      | _ => false) = true := by decide

/-- The frame that `withFetchWord` places is fetched by the very next step, from reset too (R41, R120). -/
theorem test_fetch_word :
    seen (fun t => (axisRec t .a3).calibrated) (step (State.reset.withFetchWord 32 0x43030000)) = some true := by decide

/-! ### Witnesses: states and operands that meet the hypotheses of the statements -/

/-- DecodeOfEncodeIsIdentity, EncodeOfDecodeIsIdentity: well-formed frames, at the ends of their ranges. -/
theorem test_witness_wf :
    (Instr.move 0xFF#8 true 32767#15).wf = true ∧ (Instr.invalid 0x00#8 0#8 0#8 0#8).wf = true ∧
    (Instr.invalid 0xFF#8 0#8 0#8 0#8).wf = true := by decide

/-- FramesAreFourBytes: three bytes, four bytes, five bytes. -/
theorem test_witness_lengths :
    ([0#8, 0#8, 0#8] : List Byte).length < 4 ∧ 4 ≤ ([0#8, 0#8, 0#8, 0#8] : List Byte).length ∧
    4 ≤ ([0#8, 0#8, 0#8, 0#8, 0#8] : List Byte).length := by decide

/-- StepRunsDecodedFrame, PollConsumesExactlyFour (a frame waits), ProtocolErrorIsPrecise: an Invalid frame. -/
theorem test_witness_frame :
    let s := send 0x58#8 0#8 0#8 0#8 busy
    configOk s.cfg = true ∧ EngineNext s [] ∧ decode s.rx = .ok (.invalid 0x58#8 0#8 0#8 0#8, []) ∧
    RaisesError s.cfg (.invalid 0x58#8 0#8 0#8 0#8) ∧ s.rx.length = 4 :=
  ⟨by decide, .inl ⟨rfl, rfl⟩, by decide, trivial, rfl⟩

/-- EngineNext with pending turns: the Engine's turn is the first. -/
theorem test_witness_engine_turn :
    EngineNext { busy with turns := [.engine, .other (.hostSend 0#8)] } [.other (.hostSend 0#8)] := .inr rfl

/-- PollConsumesExactlyFour: no byte, three and five bytes are not four. -/
theorem test_witness_no_frame :
    ([[], [1#8, 2#8, 3#8], [1#8, 2#8, 3#8, 4#8, 5#8]] : List (List Byte)).all (fun bs =>
      configOk ({ busy with rx := bs } : State).cfg && decide (bs.length ≠ 4)) = true := by decide

/-- StalledDecoderNeverRecovers: a run of two steps from five waiting bytes, and one more host byte. -/
theorem test_witness_stall :
    let s := { idle with rx := [1#8, 2#8, 3#8, 4#8, 5#8], turns := [.other (.hostSend 6#8)] }
    4 < s.rx.length ∧ ∃ t, Sys2Proof.core.run 2 s = .next t ∧ configOk t.cfg = true ∧ EngineNext t [] :=
  ⟨by decide, _, rfl, by decide, .inl ⟨rfl, rfl⟩⟩

/-- CommandPhase without a frame, for the statements about an iteration. -/
theorem test_witness_command_phase : CommandPhase busy [] (polledState busy []) :=
  ⟨.inl ⟨rfl, rfl⟩, by decide, .inl ⟨by decide, rfl⟩⟩

/-- CommandPhase with a frame: a Move of count 0 leaves axis 4 running with no steps. -/
theorem test_witness_command_phase_frame :
    ∃ u, CommandPhase (send 0x4D#8 4#8 0x80#8 0#8 busy) [] u ∧
      (axisRec u .a4).running = true ∧ (axisRec u .a4).stepsRemaining = 0 :=
  ⟨_, ⟨.inl ⟨rfl, rfl⟩, by decide, .inr ⟨_, rfl, rfl⟩⟩, by decide, by decide⟩

/-- SteppingAxis, TrackerCommutesWithIteration: axes that complete no pass (stepping, correcting, idle); and
SteppingAxisIsCounted, UnmarkedStepsAreExact: an axis that steps and does not correct. -/
theorem test_witness_stepping :
    let u := polledState busy []
    CommandPhase busy [] u ∧ completesPass u .a1 = false ∧ completesPass u .a2 = false ∧ completesPass u .a4 = false ∧
    (axisRec u .a4).stepsRemaining = 0 ∧ 0 < (axisRec u .a1).stepsRemaining ∧ (axisRec u .a1).correcting = false ∧
    (axisRec u .a2).correcting = true :=
  ⟨test_witness_command_phase, by decide⟩

/-- CompletingAxis at its boundaries: a last step with error exactly one unit, with one less, of a correction, and a
running axis without steps. -/
theorem test_witness_completing :
    let u := polledState busy []
    let v := polledState { busy with enc := busy.enc.set .a3 1 } []
    CommandPhase busy [] u ∧ CommandPhase { busy with enc := busy.enc.set .a3 1 } [] v ∧
    ((axisRec u .a3).running = true ∧ (axisRec u .a3).stepsRemaining ≤ 1 ∧ (axisRec u .a3).correcting = false ∧
      busy.cfg.posUnit.get .a3 = (advanced u .a3 - busy.enc.get .a3).natAbs) ∧
    (advanced v .a3 - (busy.enc.set .a3 1).get .a3).natAbs + 1 = busy.cfg.posUnit.get .a3 ∧
    ((axisRec u .a5).running = true ∧ (axisRec u .a5).stepsRemaining ≤ 1 ∧ (axisRec u .a5).correcting = true) :=
  ⟨test_witness_command_phase, ⟨.inl ⟨rfl, rfl⟩, by decide, .inl ⟨by decide, rfl⟩⟩, by decide⟩

/-- SingleShotCorrection: a correction with two steps left, and one with its last step left. -/
theorem test_witness_correcting :
    configOk busy.cfg = true ∧ EngineNext busy [] ∧ busy.rx.length ≠ 4 ∧
    ((axisRec busy .a2).correcting = true ∧ (axisRec busy .a2).running = true ∧
      (axisRec busy .a2).stepsRemaining = 2) ∧
    ((axisRec busy .a5).correcting = true ∧ (axisRec busy .a5).running = true ∧
      (axisRec busy .a5).stepsRemaining = 1) := ⟨by decide, .inl ⟨rfl, rfl⟩, by decide⟩

/-- PulseDelayIsDivided: some axis is running, one steps and one does not. -/
theorem test_witness_running :
    CommandPhase busy [] (polledState busy []) ∧
    (∃ j, (axisRec (polledState busy []) j).running = true) ∧
    0 < (axisRec (polledState busy []) .a1).stepsRemaining ∧
    ¬0 < (axisRec (polledState busy []) .a4).stepsRemaining :=
  ⟨test_witness_command_phase, ⟨.a1, by decide⟩, by decide, by decide⟩

/-- PassInv: SteppingAxisIsCounted, MotionStateTransitions, StepKeepsPassInvariant. -/
theorem test_witness_pass_inv :
    PassInv busy ∧ (∃ t, step busy = .next t) ∧ CommandPhase busy [] (polledState busy []) ∧
      0 < (axisRec (polledState busy []) .a1).stepsRemaining := by
  refine ⟨(Axis.forall_iff _).2 ?_, ⟨_, rfl⟩, test_witness_command_phase, by decide⟩
  simp only [AxisPassInv]
  decide

/-- MotionStateTransitions: an axis in each of the three states. -/
theorem test_witness_motion_states :
    PassInv busy ∧ configOk busy.cfg = true ∧ EngineNext busy [] ∧ busy.rx.length ≠ 4 ∧
    motionState (axisRec busy .a4) = some .idle ∧ motionState (axisRec busy .a1) = some .moving ∧
    motionState (axisRec busy .a2) = some .correcting :=
  ⟨test_witness_pass_inv.1, by decide, .inl ⟨rfl, rfl⟩, by decide⟩

/-- RangeInv at the ends of the range: StepKeepsRanges, MovePassRuns (4 of 5 steps, and all 5). -/
theorem test_witness_range_inv :
    let s := withAxis .a4 (fun a => { a with expectedPosition := -2 ^ 31, stepsRemaining := 2 ^ 32 - 1 })
      { busy with enc := busy.enc.set .a5 (2 ^ 31 - 1) }
    RangeInv s ∧ (∃ t, step s = .next t) ∧ configOk s.cfg = true ∧ s.turns = [] ∧ s.rx.length ≠ 4 ∧
      (axisRec s .a1).running = true ∧ (axisRec s .a1).correcting = false ∧ 4 < (axisRec s .a1).stepsRemaining ∧
      1 ≤ 5 ∧ 5 = (axisRec s .a1).stepsRemaining := by
  refine ⟨(Axis.forall_iff _).2 ?_, ⟨_, rfl⟩, by decide, rfl, by decide, by decide, by decide, by decide, by decide,
    by decide⟩
  simp only [AxisRangeInv, InSigned]
  decide

/-- MovePassRuns with the last step of axis 3: the error is exactly one unit, and one less. -/
theorem test_witness_last_step :
    let s := fun (e : Int) => { busy with enc := busy.enc.set .a3 e }
    RangeInv (s 0) ∧ RangeInv (s 1) ∧ configOk (s 0).cfg = true ∧ (s 0).turns = [] ∧ (s 0).rx.length ≠ 4 ∧
    (axisRec (s 0) .a3).running = true ∧ (axisRec (s 0) .a3).correcting = false ∧
    1 = (axisRec (s 0) .a3).stepsRemaining ∧
    (∃ t, Sys2Proof.core.run 1 (s 0) = .next t ∧
      (s 0).cfg.posUnit.get .a3 = ((axisRec t .a3).expectedPosition - (s 0).enc.get .a3).natAbs) ∧
    (∃ t, Sys2Proof.core.run 1 (s 1) = .next t ∧
      ((axisRec t .a3).expectedPosition - (s 1).enc.get .a3).natAbs + 1 = (s 1).cfg.posUnit.get .a3) := by
  refine ⟨(Axis.forall_iff _).2 ?_, (Axis.forall_iff _).2 ?_, by decide, rfl, by decide, by decide, by decide, by decide,
    ⟨_, rfl, by decide⟩, ⟨_, rfl, by decide⟩⟩ <;> simp only [AxisRangeInv, InSigned] <;> decide

/-- SettledIterationOnlyClears: the bench at power-on is settled. -/
theorem test_witness_settled : configOk idle.cfg = true ∧ EngineNext idle [] ∧ Settled idle :=
  ⟨by decide, .inl ⟨rfl, rfl⟩, rfl, (Axis.forall_iff _).2 (by decide)⟩

/-- CalibrationInv: all five calibrated and the flag set, and none calibrated. -/
theorem test_witness_calibration_inv :
    CalibrationInv busy ∧ CalibrationInv { idle with
      axes := PerAxis.of fun k => { axisRec idle k with calibrated := true }, allCalibrated := true } := by
  constructor <;> rw [CalibrationInv, Axis.forall_iff] <;> decide

/-- PumpInv: pump 2 was switched on after pump 1. -/
theorem test_witness_pump_inv :
    PumpInv { idle with
      pump2On := true
      trace := [.pumpSet .pump2 false, .pumpSet .pump1 true, .pumpSet .pump1 false, .pumpSet .pump2 true] } := by
  refine ⟨by decide, fun n => ?_⟩
  match n with
  | 0 => decide
  | 1 => decide
  | 2 => decide
  | 3 => decide
  | n + 4 => simp [pumpsAfter, pumpAfter]

/-- StepLow holds at power-on and in a state whose DIR outputs are high. -/
theorem test_witness_step_low : StepLow { busy with dirPin := PerAxis.of fun _ => true } :=
  (Axis.forall_iff _).2 (by decide)

/-- OverflowMarkIsSticky: a marked state that steps. -/
theorem test_witness_marked :
    ∃ t, step { busy with posOverflow := true } = .next t ∧ ({ busy with posOverflow := true } : State).posOverflow = true :=
  ⟨_, rfl, rfl⟩

/-- UnmarkedStepsAreExact, OutputsOnlyGrow: an edge and an iteration that leave the mark false. -/
theorem test_witness_unmarked :
    (∃ t, step { busy with turns := [.other (.trackerEdge .a5 .chB)] } = .next t ∧ t.posOverflow = false) ∧
    (∃ t, CommandPhase busy [] (polledState busy []) ∧ step busy = .next t ∧ t.posOverflow = false ∧
      0 < (axisRec (polledState busy []) .a1).stepsRemaining ∧
      (axisRec (polledState busy []) .a1).correcting = false) :=
  ⟨⟨_, rfl, by decide⟩, ⟨_, test_witness_command_phase, rfl, by decide, by decide, by decide⟩⟩

/-- BlockNeverHalts, TimingReachesOnlyTheTrace, UnreadRegistersReachNothing: a well-formed configuration that steps. -/
theorem test_witness_goes_on : configOk busy.cfg = true ∧ ∃ t, step busy = .next t := ⟨by decide, _, rfl⟩

/-- TrackerTurn on both sides of the range: an A edge with equal levels goes back, past the lower end; a B edge goes
forward, to the upper end (2^31 - 1) or past it. -/
theorem test_witness_tracker_turn :
    let s := fun (e : Int) => { idle with enc := idle.enc.set .a5 e, turns := [.other (.trackerEdge .a5 .chA)] }
    (configOk (s 0).cfg = true ∧ (s 0).turns = .other (.trackerEdge .a5 .chA) :: []) ∧
    (s (-2 ^ 31 + 3)).enc.get .a5 + -(bench.encInc : Int) = -2 ^ 31 - 1 ∧
    (s 0).encA.get .a5 = (s 0).encB.get .a5 ∧
    (s (2 ^ 31 - 5)).enc.get .a5 + (bench.encInc : Int) = 2 ^ 31 - 1 ∧
    (s (2 ^ 31 - 4)).enc.get .a5 + (bench.encInc : Int) = 2 ^ 31 := by
  dsimp only; decide

/-- TrackersOfDifferentAxesCommute. -/
theorem test_witness_two_axes : Axis.a1 ≠ Axis.a5 := by decide

/-- TrackerCommutesWithCommands: a command that answers a next state. -/
theorem test_witness_command : ∃ t, exec (.stop 0#8 0#8 0#8) busy = .next t := ⟨_, rfl⟩

/-- TrackerCommutesWithIteration: the state before an Engine turn, axis 1 completing no pass. -/
theorem test_witness_edge_around_iteration :
    CommandPhase { busy with turns := [.engine] } [] (polledState { busy with turns := [.engine] } []) ∧
    completesPass (polledState { busy with turns := [.engine] } []) .a1 = false :=
  ⟨⟨.inr rfl, by decide, .inl ⟨by decide, rfl⟩⟩, by decide⟩

/-- EnvironmentTurns: one pending turn of each kind. -/
theorem test_witness_environment :
    ({ busy with turns := [.other (.encoderLevels .a1 true false)] } : State).turns =
      .other (.encoderLevels .a1 true false) :: [] ∧
    ({ busy with turns := [.other (.hostSend 0x53#8)] } : State).turns = .other (.hostSend 0x53#8) :: [] ∧
    ({ busy with turns := [.other (.hostRead 4)] } : State).turns = .other (.hostRead 4) :: [] := ⟨rfl, rfl, rfl⟩

/-- StopIterationMakesNoPulse: a Stop waits while axes run. -/
theorem test_witness_stop :
    configOk (send 0x53#8 0#8 0#8 0#8 busy).cfg = true ∧ EngineNext (send 0x53#8 0#8 0#8 0#8 busy) [] ∧
    (send 0x53#8 0#8 0#8 0#8 busy).rx = [0x53#8, 0#8, 0#8, 0#8] := ⟨by decide, .inl ⟨rfl, rfl⟩, rfl⟩

/-- Selectors in range at both ends and out of range beside them, with base 0 and with base 0x30: CalibrateResult,
MoveResult, SetPeriodResult, InvalidFrameResult, AxisSelectorDecodes. -/
theorem test_witness_selectors :
    Selects bench 1#8 .a1 ∧ Selects bench 5#8 .a5 ∧ SelectsNone bench 0#8 ∧ SelectsNone bench 6#8 ∧
    SelectsNone bench 0xFF#8 ∧ Selects { bench with axisSelBase := 0x30#8 } 0x31#8 .a1 ∧
    SelectsNone { bench with axisSelBase := 0x30#8 } 1#8 := by
  simp only [Selects, SelectsNone]
  decide

/-- AxisSelectorDecodes: a selector with no axis. -/
theorem test_witness_no_axis : axisOf bench 0#8 = none ∧ axisOf bench 6#8 = none ∧ axisOf bench 5#8 = some .a5 := by
  decide

/-- CalibrateResult: every other axis calibrated, and another axis not. -/
theorem test_witness_calibrate :
    (∀ j, j ≠ .a5 → (axisRec { idle with
      axes := PerAxis.of fun k => { axisRec idle k with calibrated := decide (k ≠ .a5) } } j).calibrated = true) ∧
    (∃ j, j ≠ .a1 ∧ (axisRec idle j).calibrated = false) :=
  ⟨(Axis.forall_iff _).2 (by decide), .a2, by decide, by decide⟩

/-- MoveOfZeroCompletesAtOnce: both errors, at one unit and one below it (unit 16). -/
theorem test_witness_move_of_zero :
    let s := fun (e : Int) => send 0x4D#8 1#8 0x80#8 0#8 { idle with enc := idle.enc.set .a1 e }
    configOk (s 0).cfg = true ∧ EngineNext (s 0) [] ∧ (s 0).rx = [0x4D#8, 1#8, 0x80#8, 0#8] ∧
    (0x80#8 : Byte).toNat % 128 = 0 ∧ Selects (s 0).cfg 1#8 .a1 ∧
    ((axisRec (s 15) .a1).expectedPosition - (s 15).enc.get .a1).natAbs < (s 15).cfg.posUnit.get .a1 ∧
    (s 16).cfg.posUnit.get .a1 ≤ ((axisRec (s 16) .a1).expectedPosition - (s 16).enc.get .a1).natAbs :=
  ⟨by decide, .inl ⟨rfl, rfl⟩, rfl, by decide, by unfold Selects; decide, by decide, by decide⟩

/-- SetPeriodResult, PumpResult: default decodes; every result of PUMP_DECODE, and p1 0, 1, 2, 3. -/
theorem test_witness_pump_decode :
    bench.periodTable = [] ∧ bench.pumpTable = [] ∧
    pumpDecode bench 1#8 1#8 0#8 = some { channel := .pump1, on := true } ∧
    pumpDecode bench 2#8 0xFF#8 0#8 = some { channel := .pump2, on := true } ∧
    pumpDecode bench 1#8 0#8 0#8 = some { channel := .pump1, on := false } ∧
    pumpDecode bench 2#8 0#8 0#8 = some { channel := .pump2, on := false } ∧
    pumpDecode bench 0#8 1#8 0#8 = none ∧ pumpDecode bench 3#8 1#8 0#8 = none := by decide

/-- LightResult: every kind of result of LIGHT_DECODE, the three status commands with and without the ring reset. -/
theorem test_witness_light_decode :
    (([.clearUncalibrated, .clearCalibrated, .done] : List StatusCmd).all fun st =>
      decide (lightDecode { bench with lightTable := [((1#8, 0#8, 0#8), .status st false)] } 1#8 0#8 0#8 =
          some (.status st false)) &&
        decide (lightDecode { bench with lightTable := [((1#8, 0#8, 0#8), .status st true)] } 1#8 0#8 0#8 =
          some (.status st true))) = true ∧
    lightDecode bench 3#8 0x10#8 0x20#8 = some (.pixel 3 0x10#8 0x20#8 0x30#8 true) ∧
    lightDecode bench 9#8 9#8 9#8 = none := by decide

/-- InvalidFrameResult: opcode bytes that are none of the seven. -/
theorem test_witness_no_opcode : 0x00#8 ∉ opcodeBytes ∧ 0x73#8 ∉ opcodeBytes ∧ 0xFF#8 ∉ opcodeBytes := by decide

/-- ErrorTaxonomy: each frame that can raise, raising and not raising. -/
theorem test_witness_errors :
    RaisesError bench (.cal 0#8 0#8 0#8) ∧ ¬RaisesError bench (.cal 1#8 0#8 0#8) ∧
    RaisesError bench (.move 6#8 true 1#15) ∧ ¬RaisesError bench (.move 5#8 true 1#15) ∧
    RaisesError bench (.setp 6#8 0#8 0#8) ∧ ¬RaisesError bench (.setp 5#8 0#8 0#8) ∧
    RaisesError bench (.pump 3#8 0#8 0#8) ∧ ¬RaisesError bench (.pump 2#8 0#8 0#8) ∧
    RaisesError bench (.light 9#8 9#8 9#8) ∧ ¬RaisesError bench (.light 1#8 0#8 0#8) ∧
    ¬RaisesError bench (.stop 0#8 0#8 0#8) ∧ ¬RaisesError bench (.reset 0#8 0#8 0#8) := by
  simp only [RaisesError, SelectsNone]
  decide

end Sys2Proof.Tests
end

/-! ### The refusal of ill-formed configurations (00_scope.md R3) -/

section
namespace Sys2Proof.Machine

/-- Every agent's turn goes through on a well-formed configuration (R71, R253). -/
theorem step_next_of_configOk {s : State} (hc : configOk s.cfg = true) : ∃ t, step s = .next t := by
  have engine : ∀ r, EngineNext s r → ∃ t, step s = .next t := by
    intro r he
    obtain ⟨u, hu⟩ := commandPhase_exists hc he
    exact ⟨motionPhases u, step_of_commandPhase hu⟩
  match ht : s.turns with
  | [] => exact engine [] (.inl ⟨ht, rfl⟩)
  | .engine :: r => exact engine r (.inr ht)
  | .other m :: r => exact ⟨_, step_other hc ht⟩

/-- The guard of `step` (R3). -/
theorem step_of_not_configOk {s : State} (hc : ¬configOk s.cfg = true) : step s = .refused .illFormedConfig := by
  simp [step, guardedTurn, hc]

/-- The refusal is the configuration check's alone: no later phase of a turn refuses with this reason. -/
theorem step_eq_refused_illFormedConfig_iff {s : State} :
    step s = .refused .illFormedConfig ↔ ¬configOk s.cfg = true := by
  refine ⟨fun h hc => ?_, step_of_not_configOk⟩
  obtain ⟨t, ht⟩ := step_next_of_configOk hc
  rw [ht] at h
  cases h

/-- Settles O30: the check of R3 is the only source of the refusal, and `configOk_iff` spells the check out. -/
theorem illFormedConfigurationIsRefused : Obligations.IllFormedConfigurationIsRefused := by
  intro s
  rw [step_eq_refused_illFormedConfig_iff, configOk_iff]

end Sys2Proof.Machine
end

/-! ### The frame encoding and Move's operands (30_encoding.md R80 to R91) -/

section
namespace Sys2Proof.Machine

/-- The seven opcode bytes one by one (R86). -/
theorem mem_opcodeBytes_iff {b : Byte} : b ∈ opcodeBytes ↔
    b = 0x53#8 ∨ b = 0x43#8 ∨ b = 0x4D#8 ∨ b = 0x50#8 ∨ b = 0x4C#8 ∨ b = 0x44#8 ∨ b = 0x52#8 := by
  simp [opcodeBytes]

/-- The bytes that are no opcode (R87). -/
theorem notMem_opcodeBytes_iff {b : Byte} : b ∉ opcodeBytes ↔
    b ≠ 0x53#8 ∧ b ≠ 0x43#8 ∧ b ≠ 0x4D#8 ∧ b ≠ 0x50#8 ∧ b ≠ 0x4C#8 ∧ b ≠ 0x44#8 ∧ b ≠ 0x52#8 := by
  simp [opcodeBytes]

/-- Any other opcode byte gives an Invalid frame that keeps all four bytes (R87). -/
theorem decodeFrame_of_notMem_opcodeBytes {b1 : Byte} (hb : b1 ∉ opcodeBytes) (p1 p2 p3 : Byte) :
    decodeFrame b1 p1 p2 p3 = .invalid b1 p1 p2 p3 := by
  simp [decodeFrame, notMem_opcodeBytes_iff.1 hb]

/-- Settles O4: each of the seven bytes gives its own constructor, and every other byte gives `invalid`. -/
theorem opcodeByteSelectsCommand : Obligations.OpcodeByteSelectsCommand := by
  intro b1 p1 p2 p3
  by_cases hb : b1 ∈ opcodeBytes
  · rcases mem_opcodeBytes_iff.1 hb with rfl | rfl | rfl | rfl | rfl | rfl | rfl <;> simp [decodeFrame]
  · simp [decodeFrame_of_notMem_opcodeBytes hb, notMem_opcodeBytes_iff.1 hb]

/-- The direction bit of a Move is the high bit shifted down (R82). -/
theorem moveDir_iff (p2 : Byte) : moveDir p2 = true ↔ (p2 >>> 7) &&& 1#8 = 1#8 := by
  rw [moveDir, BitVec.and_one_eq_setWidth_ofBool_getLsbD, BitVec.getLsbD_ushiftRight]
  cases p2.getLsbD 7 <;> decide

/-- Settles O5: the decoder's `moveDir` and `moveCount` are the two operands, and the width of the count bounds it. -/
theorem moveOperandAssembly : Obligations.MoveOperandAssembly := by
  intro p1 p2 p3
  refine ⟨moveDir p2, moveCount p2 p3, rfl, moveDir_iff p2, ?_, ?_⟩
  · rw [moveCount_toNat, (moveByte_parts p2).1]
  · exact Nat.le_of_lt_succ (moveCount p2 p3).isLt

/-- The high byte of a decoded Move is the one received (R82, R91). -/
@[simp] theorem moveHighByte_decoded (p2 p3 : Byte) : moveHighByte (moveDir p2) (moveCount p2 p3) = p2 := by
  have hdiv : (moveCount p2 p3).toNat / 256 = p2.toNat % 128 := by
    have := p3.isLt
    rw [moveCount_toNat]
    omega
  rw [moveHighByte, hdiv]
  exact (moveByte_parts p2).2.2

/-- The low byte of a decoded Move is the one received (R82, R91). -/
@[simp] theorem moveLowByte_decoded (p2 p3 : Byte) : moveLowByte (moveCount p2 p3) = p3 := by
  have hmod : (moveCount p2 p3).toNat % 256 = p3.toNat := by
    have := p3.isLt
    rw [moveCount_toNat]
    omega
  rw [moveLowByte, hmod, BitVec.ofNat_toNat, BitVec.setWidth_eq]

/-- Every four bytes decode to a well-formed frame (R86, R87). -/
theorem wf_decodeFrame (b1 p1 p2 p3 : Byte) : (decodeFrame b1 p1 p2 p3).wf = true := by
  by_cases hb : b1 ∈ opcodeBytes
  · rcases mem_opcodeBytes_iff.1 hb with rfl | rfl | rfl | rfl | rfl | rfl | rfl <;> rfl
  · rw [decodeFrame_of_notMem_opcodeBytes hb]
    simpa [Instr.wf] using hb

/-- Encoding a decoded frame gives back its four bytes (R80 to R91). -/
theorem encode_decodeFrame (b1 p1 p2 p3 : Byte) : encode (decodeFrame b1 p1 p2 p3) = [b1, p1, p2, p3] := by
  by_cases hb : b1 ∈ opcodeBytes
  · rcases mem_opcodeBytes_iff.1 hb with rfl | rfl | rfl | rfl | rfl | rfl | rfl <;> simp [decodeFrame, encode]
  · rw [decodeFrame_of_notMem_opcodeBytes hb, encode]

/-- Settles O6: `decode` takes the first four bytes, and `wf_decodeFrame` and `encode_decodeFrame` say what frame they
are. -/
theorem framesAreFourBytes : Obligations.FramesAreFourBytes := by
  constructor
  · intro bs hlen
    match bs, hlen with
    | [], _ | [_], _ | [_, _], _ | [_, _, _], _ => rfl
  · intro bs hlen
    match bs, hlen with
    | b1 :: p1 :: p2 :: p3 :: rest, _ =>
      exact ⟨decodeFrame b1 p1 p2 p3, rfl, wf_decodeFrame b1 p1 p2 p3, encode_decodeFrame b1 p1 p2 p3⟩

/-- A number below 256 is an opcode byte when it is one of the seven values (R86). -/
theorem ofNat_mem_opcodeBytes_iff {n : Nat} (hn : n < 256) :
    BitVec.ofNat 8 n ∈ opcodeBytes ↔ n ∈ opcodeBytes.map BitVec.toNat := by
  simp [opcodeBytes, BitVec.toNat_eq, Nat.mod_eq_of_lt hn]

/-- All but seven of the 256 byte values are no opcode: the seven are distinct values below 256 (R87). -/
theorem length_filter_notMem_opcodeBytes :
    ((List.range 256).filter fun n => !opcodeBytes.contains (BitVec.ofNat 8 n)).length = 249 := by
  have hsub : (opcodeBytes.map BitVec.toNat).toFinset ⊆ Finset.range 256 := by decide
  calc _ = (Finset.range 256 \ (opcodeBytes.map BitVec.toNat).toFinset).card := by
        rw [Finset.sdiff_eq_filter]
        refine congrArg List.length (List.filter_congr fun n hn => ?_)
        simp only [List.contains_eq_mem, ofNat_mem_opcodeBytes_iff (List.mem_range.1 hn), List.mem_toFinset,
          decide_not]
    _ = 256 - 7 := by rw [Finset.card_sdiff_of_subset hsub, Finset.card_range]; rfl

end Sys2Proof.Machine
end

/-! ### The axis selector, SetPeriod and Invalid (R83, R84, R180, R184, R222) -/

section
namespace Sys2Proof.Machine

section Selector
variable {s : State} {sel : Byte}

/-- Calibrate, Move and SetPeriod without an axis answer `E010` and do nothing else (R180). -/
theorem exec_of_axisOf_eq_none (h : axisOf s.cfg sel = none) (p2 p3 : Byte) (dir : Bool) (count : BitVec 15) :
    exec (.cal sel p2 p3) s = .next (withErrorReply s) ∧ exec (.move sel dir count) s = .next (withErrorReply s) ∧
      exec (.setp sel p2 p3) s = .next (withErrorReply s) := by
  simp [exec_eq, afterExec, h]

/-- SetPeriod with an axis writes that axis's period and nothing else (R184). -/
theorem exec_setp_of_selects {k : Axis} (h : Selects s.cfg sel k) (p2 p3 : Byte) :
    exec (.setp sel p2 p3) s = .next (setPeriodAxis (periodDecode s.cfg sel p2 p3) k s) := by
  simp [exec_eq, afterExec, axisOf_eq_some.2 h]

end Selector

/-- The default period fits its 16 bits (R84). -/
theorem periodDefault_toNat (p1 p2 p3 : Byte) : (periodDefault p1 p2 p3).toNat = p2.toNat * 256 + p3.toNat := by
  have h2 := p2.isLt
  have h3 := p3.isLt
  rw [periodDefault, BitVec.toNat_ofNat]
  omega

/-- With an empty table PERIOD_DECODE is its default (R84). -/
theorem periodDecode_of_table_nil {c : Params} (h : c.periodTable = []) (p1 p2 p3 : Byte) :
    periodDecode c p1 p2 p3 = periodDefault p1 p2 p3 := by
  rw [periodDecode, h, List.lookup_nil, Option.getD_none]

/-- Settles O47: the rules of SetPeriod with and without an axis, and the default of PERIOD_DECODE. -/
theorem setPeriodResult : Obligations.SetPeriodResult := by
  intro s p1 p2 p3 k
  refine ⟨rfl, fun h => exec_setp_of_selects h p2 p3, fun h => ?_, fun h => ?_⟩
  · obtain ⟨-, -, hsetp⟩ := exec_of_axisOf_eq_none (axisOf_eq_none.2 h) p2 p3 false 0
    exact hsetp
  · rw [periodDecode_of_table_nil h, periodDefault_toNat]

/-- Settles O51: the count of the other bytes, their decoding, the effect of `invalid`, and the selector error through
`axisOf_eq_none`. -/
theorem invalidFrameResult : Obligations.InvalidFrameResult := by
  refine ⟨length_filter_notMem_opcodeBytes, ?_, ?_, ?_⟩
  · exact fun b1 p1 p2 p3 hb => decodeFrame_of_notMem_opcodeBytes hb p1 p2 p3
  · exact fun b1 p1 p2 p3 s => exec_eq s (.invalid b1 p1 p2 p3)
  · exact fun s sel p2 p3 dir count h => exec_of_axisOf_eq_none (axisOf_eq_none.2 h) p2 p3 dir count

/-- Settles O52: `axisOf` as the laws of the selector give it, and the error of the three commands without an axis. -/
theorem axisSelectorDecodes : Obligations.AxisSelectorDecodes :=
  ⟨fun _ _ _ => axisOf_eq_some, fun _ _ => axisOf_eq_none,
    fun _ _ p2 p3 dir count h => exec_of_axisOf_eq_none h p2 p3 dir count⟩

end Sys2Proof.Machine
end

/-! ### The open-loop estimates and the pulses of an iteration (42_engine.md R143 to R147) -/

section
namespace Sys2Proof.Machine

/-- A completed pass writes the snapshot and the flags, never the estimate (R146, R150 to R152). -/
@[simp] theorem phase4Rec_expectedPosition (s : State) (k : Axis) :
    (phase4Rec s k).expectedPosition = advanced s k := by
  unfold phase4Rec
  split_ifs <;> rfl

/-- The open-loop estimate as a choice on the axis making a step of a move pass (R144, R146). -/
theorem advanced_eq_ite (s : State) (k : Axis) :
    advanced s k =
      if 0 < (axisRec s k).stepsRemaining ∧ (axisRec s k).correcting = false then
        wrapS s.cfg.wPos ((axisRec s k).expectedPosition +
          (if (axisRec s k).direction = true then (s.cfg.posUnit.get k : Int) else -(s.cfg.posUnit.get k : Int)))
      else (axisRec s k).expectedPosition := by
  have hstep : ((axisRec s k).stepsRemaining = 0 ∨ (axisRec s k).correcting = true) ↔
      ¬(0 < (axisRec s k).stepsRemaining ∧ (axisRec s k).correcting = false) := by
    rw [not_and_or, Nat.not_lt, Nat.le_zero, Bool.not_eq_false]
  simp only [advanced, hstep, ite_not]

/-- An advance wraps when a step of a move pass has its exact result outside the range (R37, R146). -/
theorem advanceWraps_iff {s : State} {k : Axis} :
    advanceWraps s k = true ↔
      0 < (axisRec s k).stepsRemaining ∧ (axisRec s k).correcting = false ∧
        ¬InSigned s.cfg.wPos ((axisRec s k).expectedPosition +
          (if (axisRec s k).direction = true then (s.cfg.posUnit.get k : Int) else -(s.cfg.posUnit.get k : Int))) := by
  simp only [advanceWraps, Bool.and_eq_true, decide_eq_true_eq, Bool.not_eq_true', outsideSigned_iff, and_assoc]

/-- The mark after phase 4 is set exactly when it was, or when the advance of some axis wraps (R37). -/
theorem motionPhases_posOverflow_iff {s : State} :
    (motionPhases s).posOverflow = true ↔ s.posOverflow = true ∨ ∃ k, advanceWraps s k = true := by
  simp only [motionPhases_posOverflow, Bool.or_eq_true, List.any_eq_true, Axis.mem_all, true_and]

/-- Settles O13: the estimate after phase 4 is `advanced` and the mark collects `advanceWraps`, both on the state the
command phase left, which has the configuration and the mark of the state before it. -/
theorem openLoopAdvance : Obligations.OpenLoopAdvance := by
  intro s u r h
  obtain ⟨hcfg, -, -, -, hmark, -⟩ := commandPhase_frame h
  refine ⟨motionPhases u, step_of_commandPhase h, fun k => ?_, ?_⟩
  · rw [axisRec_motionPhases, phase4Rec_expectedPosition, advanced_eq_ite, hcfg]
  · simp only [motionPhases_posOverflow_iff, advanceWraps_iff, hcfg, hmark]

/-- The count of running axes is positive as soon as one axis runs (R143). -/
theorem totalRunning_pos {s : State} {j : Axis} (hj : (axisRec s j).running = true) : 0 < totalRunning s := by
  rw [totalRunning_eq]
  exact List.length_pos_of_mem (List.mem_filter.2 ⟨Axis.mem_all j, hj⟩)

/-- With an axis running the delay is the quotient, not the free value (R147). -/
theorem pulseDelay_of_pos {total : Nat} (h : 0 < total) (period : BitVec 16) :
    pulseDelay period total = period.toNat / total := by
  rw [pulseDelay, if_neg h.ne']

/-- Settles O16: `iteration_pulses` gives the one pulse with the count taken after the command phase, and an axis that
runs makes that count positive. -/
theorem pulseDelayIsDivided : Obligations.PulseDelayIsDivided := by
  rintro s u r h ⟨j, hj⟩
  refine ⟨motionPhases u, step_of_commandPhase h, fun k => ?_⟩
  rw [iteration_pulses h, pulseDelay_of_pos (totalRunning_pos hj), totalRunning_eq]

end Sys2Proof.Machine
end

/-! ### Stop, Calibrate, Move and Reset (43_motor_commands.md R181 to R183, R185) -/

section
namespace Sys2Proof.Machine

/-- Settles O42: the laws of Stop's loop give its records, its replies and its frame. -/
theorem stopResult : Obligations.StopResult := by
  intro p1 p2 p3 s
  exact ⟨rfl, forEachAxis stopAxis s, exec_eq s _, axisRec_stop s, stop_tx s, stop_trace s, stop_frame s⟩

section Calibrate
variable {s : State} {k : Axis}

/-- With a calibrated record written to one axis, the five-fold test is about the other four (R182). -/
theorem allFiveCalibrated_setAxisRec_iff {m : MotorAxis} (hm : m.calibrated = true) :
    allFiveCalibrated (setAxisRec k m s) = true ↔ ∀ j, j ≠ k → (axisRec s j).calibrated = true := by
  rw [allFiveCalibrated_iff]
  refine forall_congr' fun j => ?_
  by_cases hj : j = k
  · subst hj
    simp [hm]
  · simp [axisRec_setAxisRec_ne s m hj, hj]

/-- Calibrate of the last uncalibrated axis, or of any axis once all are calibrated (R182). -/
theorem calibrateAxis_of_others (h : ∀ j, j ≠ k → (axisRec s j).calibrated = true) :
    calibrateAxis k s = { s with
      axes := s.axes.set k { axisRec s k with calibrated := true, expectedPosition := 0 }
      allCalibrated := true
      statusLed := s.cfg.colorCal
      trace := s.trace ++ [.statusLed s.cfg.colorCal] } :=
  if_pos ((allFiveCalibrated_setAxisRec_iff rfl).2 h)

/-- Calibrate while another axis is uncalibrated (R182). -/
theorem calibrateAxis_of_other {j : Axis} (hj : j ≠ k) (h : (axisRec s j).calibrated = false) :
    calibrateAxis k s =
      setAxisRec k { axisRec s k with calibrated := true, expectedPosition := 0 } s :=
  if_neg fun hall => by
    have := (allFiveCalibrated_setAxisRec_iff rfl).1 hall j hj
    simp [h] at this

end Calibrate

section Selected
variable {s : State} {sel : Byte} {k : Axis}

/-- Calibrate with an axis is the axis's calibration, whatever p2 and p3 are (R182). -/
theorem exec_cal_of_selects (h : Selects s.cfg sel k) (p2 p3 : Byte) :
    exec (.cal sel p2 p3) s = .next (calibrateAxis k s) := by
  simp [exec_eq, afterExec, axisOf_eq_some.2 h]

/-- Move with an axis starts that axis's move pass (R183). -/
theorem exec_move_of_selects (h : Selects s.cfg sel k) (dir : Bool) (count : BitVec 15) :
    exec (.move sel dir count) s = .next (moveAxis dir count k s) := by
  simp [exec_eq, afterExec, axisOf_eq_some.2 h]

end Selected

/-- Settles O44: the selector names an axis or not, and for a named one the other four axes decide between
`calibrateAxis_of_others` and `calibrateAxis_of_other`. -/
theorem calibrateResult : Obligations.CalibrateResult := by
  intro s sel p2 p3 k
  refine ⟨rfl, fun hsel => ⟨fun hall => ?_, ?_⟩, fun hnone => ?_⟩
  · rw [exec_cal_of_selects hsel, calibrateAxis_of_others hall]
  · rintro ⟨j, hj, hcal⟩
    rw [exec_cal_of_selects hsel, calibrateAxis_of_other hj hcal]
    rfl
  · obtain ⟨hcal, -, -⟩ := exec_of_axisOf_eq_none (axisOf_eq_none.2 hnone) p2 p3 false 0
    exact hcal

/-- The record a decoded Move writes, in the numbers of its two operand bytes (R82, R183). -/
theorem moveAxis_decoded (s : State) (p2 p3 : Byte) (k : Axis) :
    moveAxis (moveDir p2) (moveCount p2 p3) k s =
      setAxisRec k { axisRec s k with
        direction := decide (128 ≤ p2.toNat)
        stepsRemaining := (p2.toNat % 128) * 256 + p3.toNat
        running := true
        correcting := false } s := by
  obtain ⟨-, hdir, -⟩ := moveByte_parts p2
  rw [moveAxis, hdir, moveCount_toNat]

/-- Settles O45: a Move with an axis is `moveAxis` on the decoded operands, and one without is the error. -/
theorem moveResult : Obligations.MoveResult := by
  intro s sel p2 p3 k
  refine ⟨moveDir p2, moveCount p2 p3, rfl, fun hsel => ?_, fun hnone => ?_⟩
  · rw [exec_move_of_selects hsel, moveAxis_decoded]
    rfl
  · obtain ⟨-, hmove, -⟩ := exec_of_axisOf_eq_none (axisOf_eq_none.2 hnone) p2 p3 (moveDir p2) (moveCount p2 p3)
    exact hmove

/-- Reset's whole effect, with its loop over the records kept closed (R185). -/
theorem afterExec_reset (p1 p2 p3 : Byte) (s : State) :
    afterExec (.reset p1 p2 p3) s = { s with
      axes := (forEachAxis resetAxis s).axes
      allCalibrated := false
      statusLed := s.cfg.colorUncal
      trace := s.trace ++ [.ringReset, .statusLed s.cfg.colorUncal] } := by
  rw [afterExec, reset_frame]
  simp [setStatusLed, emit]

/-- Settles O48: the records are those of Reset's loop, and `afterExec_reset` gives the rest of the state. -/
theorem resetResult : Obligations.ResetResult := by
  intro p1 p2 p3 s
  refine ⟨rfl, afterExec (.reset p1 p2 p3) s, exec_eq s _, fun k => ?_, ?_⟩
  · rw [afterExec_reset]
    exact axisRec_reset s k
  · rw [afterExec_reset]

end Sys2Proof.Machine
end

/-! ### Pump, Light and the frame of the commands (44_peripheral_commands.md R220, R221, R224) -/

section
namespace Sys2Proof.Machine

section Peripheral
variable {s : State} {p1 p2 p3 : Byte}

/-- Pump with a request decoded drives the pumps as it says (R220). -/
theorem exec_pump_of_some {p : PumpCmd} (h : pumpDecode s.cfg p1 p2 p3 = some p) :
    exec (.pump p1 p2 p3) s = .next (drivePump p s) := by
  simp [exec_eq, afterExec, h]

/-- Pump with no request decoded answers `E010` and does nothing else (R220). -/
theorem exec_pump_of_none (h : pumpDecode s.cfg p1 p2 p3 = none) :
    exec (.pump p1 p2 p3) s = .next (withErrorReply s) := by
  simp [exec_eq, afterExec, h]

/-- Light with a request decoded drives the LEDs as it says (R221). -/
theorem exec_light_of_some {l : LightCmd} (h : lightDecode s.cfg p1 p2 p3 = some l) :
    exec (.light p1 p2 p3) s = .next (driveLight l s) := by
  simp [exec_eq, afterExec, h]

/-- Light with no request decoded answers `E010` and does nothing else (R221). -/
theorem exec_light_of_none (h : lightDecode s.cfg p1 p2 p3 = none) :
    exec (.light p1 p2 p3) s = .next (withErrorReply s) := by
  simp [exec_eq, afterExec, h]

end Peripheral

section Drivers
variable (s : State)

/-- A pump call records the level of its channel and stands in the trace; the other channel is kept (R220). -/
theorem setPump_eq (c : PumpChannel) (on : Bool) : setPump c on s = { s with
    pump1On := if c = .pump1 then on else s.pump1On
    pump2On := if c = .pump2 then on else s.pump2On
    trace := s.trace ++ [.pumpSet c on] } := by
  cases c <;> rfl

/-- Enabling a channel switches the other off first, whatever was on before (R220). -/
theorem drivePump_on (c : PumpChannel) : drivePump { channel := c, on := true } s = { s with
    pump1On := decide (c = .pump1)
    pump2On := decide (c = .pump2)
    trace := s.trace ++ [.pumpSet c.other false, .pumpSet c true] } := by
  cases c <;> simp [drivePump, PumpChannel.other, setPump_eq]

/-- Disabling a channel is its one call (R220). -/
theorem drivePump_off (c : PumpChannel) : drivePump { channel := c, on := false } s = setPump c false s := rfl

/-- A status command resets the ring if it says so, then sends its colour (R221). -/
theorem driveLight_status (st : StatusCmd) (clearRing : Bool) :
    driveLight (.status st clearRing) s = { s with
      statusLed := statusColour s.cfg st
      trace := s.trace ++ ((if clearRing then [.ringReset] else []) ++ [.statusLed (statusColour s.cfg st)]) } := by
  cases clearRing <;> simp [driveLight, setStatusLed, emit]

/-- A pixel command sets the pixel, then pushes the frame (R221). -/
theorem driveLight_pixel (index : Nat) (r g b : Byte) (nonBlocking : Bool) :
    driveLight (.pixel index r g b nonBlocking) s = { s with
      trace := s.trace ++ [.ringPixel index r g b, .ringPush nonBlocking] } := by
  simp [driveLight, emit]

/-- Pump writes no axis record (R224). -/
@[simp] theorem drivePump_axes (p : PumpCmd) : (drivePump p s).axes = s.axes :=
  PerAxis.ext_get (axisRec_drivePump s p)

/-- Pump does not write `all_calibrated` (R224). -/
@[simp] theorem drivePump_allCalibrated (p : PumpCmd) : (drivePump p s).allCalibrated = s.allCalibrated := by
  obtain ⟨c, on⟩ := p
  cases on
  · rw [drivePump_off, setPump_eq]
  · rw [drivePump_on]

/-- Light writes no axis record (R224). -/
@[simp] theorem driveLight_axes (l : LightCmd) : (driveLight l s).axes = s.axes :=
  PerAxis.ext_get (axisRec_driveLight s l)

/-- Light does not write `all_calibrated` (R224). -/
@[simp] theorem driveLight_allCalibrated (l : LightCmd) : (driveLight l s).allCalibrated = s.allCalibrated := by
  cases l with
  | status st clearRing => rw [driveLight_status]
  | pixel index r g b nonBlocking => rw [driveLight_pixel]

/-- Light writes no pump (R221). -/
theorem driveLight_pumps (l : LightCmd) :
    (driveLight l s).pump1On = s.pump1On ∧ (driveLight l s).pump2On = s.pump2On := by
  cases l with
  | status st clearRing => simp [driveLight_status]
  | pixel index r g b nonBlocking => simp [driveLight_pixel]

end Drivers

/-- With an empty table PUMP_DECODE is its default (R220). -/
theorem pumpDecode_of_table_nil {c : Params} (h : c.pumpTable = []) (p1 p2 p3 : Byte) :
    pumpDecode c p1 p2 p3 = pumpDefault p1 p2 p3 := by
  rw [pumpDecode, h, List.lookup_nil, Option.getD_none]

/-- The default PUMP_DECODE in the numbers of its bytes (R220). -/
theorem pumpDefault_eq (p1 p2 p3 : Byte) : pumpDefault p1 p2 p3 =
    if p1.toNat = 1 then some { channel := .pump1, on := decide (p2.toNat ≠ 0) }
    else if p1.toNat = 2 then some { channel := .pump2, on := decide (p2.toNat ≠ 0) }
    else none := by
  have hon : (p2 != 0#8) = decide (p2.toNat ≠ 0) := by
    rw [Bool.eq_iff_iff, bne_iff_ne, decide_eq_true_iff, ← BitVec.toNat_ne_iff_ne, BitVec.toNat_zero]
  simp [pumpDefault, BitVec.toNat_eq, hon]

/-- Settles O49: `drivePump_on` and `drivePump_off` give each request's effect, `pumpDefault_eq` the default decode. -/
theorem pumpResult : Obligations.PumpResult := by
  intro s p1 p2 p3
  refine ⟨rfl, fun h => ?_, fun h => ?_, fun h => ?_, fun h => ?_, exec_pump_of_none, fun h => ?_⟩
  · rw [exec_pump_of_some h, drivePump_on]; rfl
  · rw [exec_pump_of_some h, drivePump_on]; rfl
  · rw [exec_pump_of_some h, drivePump_off, setPump_eq]; rfl
  · rw [exec_pump_of_some h, drivePump_off, setPump_eq]; rfl
  · rw [pumpDecode_of_table_nil h, pumpDefault_eq]
    refine ⟨fun h1 => if_pos h1, fun h2 => ?_, fun h1 h2 => ?_⟩
    · rw [if_neg (by omega), if_pos h2]
    · rw [if_neg h1, if_neg h2]

/-- Settles O50: the kinds of LIGHT_DECODE's result, each with what `driveLight_status` or `driveLight_pixel` says. -/
theorem lightResult : Obligations.LightResult := by
  intro s p1 p2 p3
  refine ⟨rfl, ?_, ?_, fun index r g b nb h => ?_, exec_light_of_none⟩
  · rintro st _ h rfl
    rw [exec_light_of_some h, driveLight_status]
    cases st <;> rfl
  · rintro st _ h rfl
    rw [exec_light_of_some h, driveLight_status]
    cases st <;> rfl
  · rw [exec_light_of_some h, driveLight_pixel]

/-- Pump and Light write no axis record and not `all_calibrated`, with or without a request decoded (R224). -/
theorem afterExec_peripheral_axes (i : Instr) (s : State)
    (hi : (∃ x y z, i = .pump x y z) ∨ (∃ x y z, i = .light x y z)) :
    (afterExec i s).axes = s.axes ∧ (afterExec i s).allCalibrated = s.allCalibrated := by
  rcases hi with ⟨x, y, z, rfl⟩ | ⟨x, y, z, rfl⟩
  · rw [afterExec]
    split
    · exact ⟨drivePump_axes s _, drivePump_allCalibrated s _⟩
    · exact ⟨rfl, rfl⟩
  · rw [afterExec]
    split
    · exact ⟨driveLight_axes s _, driveLight_allCalibrated s _⟩
    · exact ⟨rfl, rfl⟩

/-- Calibrate writes no pump (R182). -/
theorem calibrateAxis_pumps (k : Axis) (s : State) :
    (calibrateAxis k s).pump1On = s.pump1On ∧ (calibrateAxis k s).pump2On = s.pump2On := by
  simp only [calibrateAxis]
  split <;> exact ⟨rfl, rfl⟩

/-- No command but Pump writes `pump_on` (R43, R220). -/
theorem afterExec_pumps (i : Instr) (s : State) (hi : ¬∃ x y z, i = .pump x y z) :
    (afterExec i s).pump1On = s.pump1On ∧ (afterExec i s).pump2On = s.pump2On := by
  cases i with
  | stop => rw [afterExec, stop_frame]; exact ⟨rfl, rfl⟩
  | reset => rw [afterExec_reset]; exact ⟨rfl, rfl⟩
  | cal =>
    rw [afterExec]
    split
    · exact calibrateAxis_pumps _ s
    · exact ⟨rfl, rfl⟩
  | move => rw [afterExec]; split <;> exact ⟨rfl, rfl⟩
  | setp => rw [afterExec]; split <;> exact ⟨rfl, rfl⟩
  | pump x y z => exact absurd ⟨x, y, z, rfl⟩ hi
  | light =>
    rw [afterExec]
    split
    · exact driveLight_pumps s _
    · exact ⟨rfl, rfl⟩
  | invalid => exact ⟨rfl, rfl⟩

/-- Settles O55: the common frame and what a command appends are the model's laws; the rest splits by command in
`afterExec_peripheral_axes` and `afterExec_pumps`. -/
theorem commandFrames : Obligations.CommandFrames := by
  intro i s
  obtain ⟨hcfg, henc, hencA, hencB, hmark, hstep, hdir, hrx, hturns⟩ := afterExec_frame s i
  obtain ⟨htx, htrace⟩ := afterExec_appends i s
  exact ⟨afterExec i s, exec_eq s i, hcfg, henc, hencA, hencB, hmark, hstep, hdir, hrx, hturns, htx, htrace,
    afterExec_peripheral_axes i s, afterExec_pumps i s⟩

end Sys2Proof.Machine
end

/-! ### Runs never end (60_exceptions.md R253, 10_state.md R32) -/

section
namespace Sys2Proof.Machine

/-- No turn of a tracker, the sender or the line writes the configuration (R32). -/
@[simp] theorem agentStep_cfg (m : AgentMove) (s : State) : (agentStep m s).cfg = s.cfg := by
  cases m <;> rfl

/-- A step writes no configuration, whichever agent takes its turn (R32). -/
theorem step_keeps_cfg {s t : State} (h : step s = .next t) : t.cfg = s.cfg := by
  obtain ⟨_, ⟨r, u, hu, rfl⟩ | ⟨m, r, _, rfl⟩⟩ := step_cases h
  · rw [motionPhases_cfg]
    exact (commandPhase_frame hu).1
  · exact agentStep_cfg m _

/-- Settles O29, by induction on the length of the run: a kept configuration stays well-formed, so the state a run has
reached can step again. -/
theorem blockNeverHalts : Obligations.BlockNeverHalts := by
  intro n s hc
  induction n with
  | zero => exact ⟨s, rfl, rfl⟩
  | succ n ih =>
    obtain ⟨t, hrun, hcfg⟩ := ih
    obtain ⟨t', hstep⟩ := step_next_of_configOk (hcfg ▸ hc : configOk t.cfg = true)
    exact ⟨t', (core_run_succ n s t hrun).trans hstep, (step_keeps_cfg hstep).trans hcfg⟩

end Sys2Proof.Machine
end

/-! ### Power-on and reset (10_state.md R50, 70_reset_and_hazards.md R270) -/

section
namespace Sys2Proof.Machine

/-- Every axis starts from its own power-on record (R50). -/
@[simp] theorem axisRec_powerOn (c : Params) (k : Axis) : axisRec (powerOn c) k = powerOnAxis c k :=
  PerAxis.get_of (powerOnAxis c) k

/-- At power-on every EncoderCounter is 0 and every output pin is low (R50). -/
theorem powerOn_counter_and_pins (c : Params) (k : Axis) :
    (powerOn c).enc.get k = 0 ∧ (powerOn c).stepPin.get k = false ∧ (powerOn c).dirPin.get k = false :=
  ⟨PerAxis.get_of _ k, PerAxis.get_of _ k, PerAxis.get_of _ k⟩

/-- Power-on keeps the configuration of the block (R32). -/
@[simp] theorem powerOn_cfg (c : Params) : (powerOn c).cfg = c := rfl

/-- The machine after reset is at power-on with the configuration it has (R270). -/
theorem reset_eq_powerOn_cfg : State.reset = powerOn State.reset.cfg := by
  rw [State.reset, powerOn_cfg]

/-- Settles O41: the records, and the counters and pins, are read per axis; the fields of the whole block are the values
`powerOn` writes. -/
theorem powerOnValues : Obligations.PowerOnValues := by
  refine ⟨fun c => ⟨fun k => ?_, rfl, rfl, powerOn_counter_and_pins c, rfl, rfl, rfl, rfl, rfl, powerOn_cfg c⟩,
    reset_eq_powerOn_cfg⟩
  rw [axisRec_powerOn, powerOnAxis]

end Sys2Proof.Machine
end

/-! ### Decoding and encoding are inverse (30_encoding.md R80 to R91) -/

section
namespace Sys2Proof.Machine

/-- A well-formed `invalid` carries no opcode byte (R87). -/
theorem wf_invalid_iff {b1 p1 p2 p3 : Byte} : (Instr.invalid b1 p1 p2 p3).wf = true ↔ b1 ∉ opcodeBytes := by
  simp [Instr.wf]

/-- Settles O2: each opcode byte selects its constructor back, a Move's operands survive their two bytes, and a
well-formed `invalid` decodes to itself. -/
theorem decodeOfEncodeIsIdentity : Obligations.DecodeOfEncodeIsIdentity := by
  intro i rest hwf
  cases i with
  | stop => rfl
  | cal => rfl
  | pump => rfl
  | light => rfl
  | setp => rfl
  | reset => rfl
  | move sel dir count =>
    show Except.ok (Instr.move sel (moveDir (moveHighByte dir count))
      (moveCount (moveHighByte dir count) (moveLowByte count)), rest) = _
    rw [moveHigh_dir, moveHigh_count]
  | invalid b1 p1 p2 p3 =>
    show Except.ok (decodeFrame b1 p1 p2 p3, rest) = _
    rw [decodeFrame_of_notMem_opcodeBytes (wf_invalid_iff.1 hwf)]

/-- Settles O3: the two laws of a decoded frame. -/
theorem encodeOfDecodeIsIdentity : Obligations.EncodeOfDecodeIsIdentity :=
  fun b1 p1 p2 p3 => ⟨wf_decodeFrame b1 p1 p2 p3, encode_decodeFrame b1 p1 p2 p3⟩

/-- Settles O1: the decoder computes each of the eight words. -/
theorem specWordsDecode : Obligations.SpecWordsDecode := by
  refine ⟨rfl, rfl, ?_, rfl, rfl, rfl, rfl, rfl⟩
  decide

end Sys2Proof.Machine
end

/-! ### The poll (41_frame_decoder.md R120, R126) -/

section
namespace Sys2Proof.Machine

/-- A waiting frame is consumed and its command is the command phase (R121, R122). -/
theorem commandPhase_of_decode {s : State} {r : List Turn} {i : Instr} (hc : configOk s.cfg = true)
    (he : EngineNext s r) (hi : decode s.rx = .ok (i, [])) : CommandPhase s r (afterExec i (consumedState s r)) :=
  ⟨he, hc, .inr ⟨i, hi, exec_eq _ i⟩⟩

/-- Without four waiting bytes the command phase is the poll alone (R120). -/
theorem commandPhase_of_length_ne {s : State} {r : List Turn} (hc : configOk s.cfg = true)
    (he : EngineNext s r) (hn : s.rx.length ≠ 4) : CommandPhase s r (polledState s r) :=
  ⟨he, hc, .inl ⟨hn, rfl⟩⟩

/-- Settles O7: the waiting frame's command phase, and the step of a command phase. -/
theorem stepRunsDecodedFrame : Obligations.StepRunsDecodedFrame := fun s r i hc he hi =>
  ⟨afterExec i (consumedState s r), exec_eq _ i, step_of_commandPhase (commandPhase_of_decode hc he hi)⟩

/-- Settles O8: four bytes decode and are consumed; any other number leaves the polled state, and phases 3 and 4 keep
the queue. -/
theorem pollConsumesExactlyFour : Obligations.PollConsumesExactlyFour := by
  intro s r hc he
  constructor
  · intro h4
    obtain ⟨u, hu⟩ := commandPhase_exists hc he
    obtain ⟨hempty, -⟩ := commandPhase_rx hu
    exact ⟨motionPhases u, step_of_commandPhase hu, by rw [motionPhases_rx, hempty h4]⟩
  · intro hn
    have hstep := step_of_commandPhase (commandPhase_of_length_ne hc he hn)
    refine ⟨hstep, fun t ht => ?_⟩
    obtain rfl : motionPhases (polledState s r) = t := by simpa [hstep] using ht
    rw [motionPhases_rx, polledState_rx]

/-- What holds before a run and is kept by every step holds after it. -/
theorem core_run_keeps {P : State → Prop} (hstep : ∀ s t, P s → step s = .next t → P t) (n : Nat)
    {s t : Sys2Proof.core.State} (hs : P s) (h : Sys2Proof.core.run n s = .next t) : P t := by
  induction n generalizing s with
  | zero =>
    cases h
    exact hs
  | succ n ih =>
    unfold Host.Core.run at h
    cases hcase : Sys2Proof.core.step s with
    | next s' =>
      rw [hcase] at h
      exact ih (hstep s s' hs hcase) h
    | fault r => rw [hcase] at h; cases h
    | refused r => rw [hcase] at h; cases h

/-- Only the host's sending writes the receive queue between iterations, and it appends (R254). -/
theorem agentStep_rx (m : AgentMove) (s : State) : ∃ more, (agentStep m s).rx = s.rx ++ more := by
  cases m with
  | hostSend b => exact ⟨[b], rfl⟩
  | trackerEdge => exact ⟨[], (List.append_nil _).symm⟩
  | encoderLevels => exact ⟨[], (List.append_nil _).symm⟩
  | hostRead => exact ⟨[], (List.append_nil _).symm⟩

/-- A step with a queue that is no frame only appends to it (R120, R254). -/
theorem step_rx_of_length_ne {s t : State} (hn : s.rx.length ≠ 4) (h : step s = .next t) :
    ∃ more, t.rx = s.rx ++ more := by
  obtain ⟨-, ⟨r, u, hu, rfl⟩ | ⟨m, r, -, rfl⟩⟩ := step_cases h
  · obtain ⟨-, hkeep⟩ := commandPhase_rx hu
    exact ⟨[], by rw [motionPhases_rx, hkeep hn, List.append_nil]⟩
  · exact agentStep_rx m _

/-- Settles O9: a queue that extends one of more than four bytes is no frame, so every step of the run extends it
further, and the poll after the run consumes nothing. -/
theorem stalledDecoderNeverRecovers : Obligations.StalledDecoderNeverRecovers := by
  intro n s t hlong hrun
  have extends_ne {v : State} (hv : ∃ more, v.rx = s.rx ++ more) : v.rx.length ≠ 4 := by
    obtain ⟨more, hmore⟩ := hv
    rw [hmore, List.length_append]
    omega
  have hgrown : ∃ more, t.rx = s.rx ++ more := by
    refine core_run_keeps (P := fun v => ∃ more, v.rx = s.rx ++ more) (fun v w hv hvw => ?_) n
      ⟨[], (List.append_nil _).symm⟩ hrun
    obtain ⟨more', hmore'⟩ := step_rx_of_length_ne (extends_ne hv) hvw
    obtain ⟨more, hmore⟩ := hv
    exact ⟨more ++ more', by rw [hmore', hmore, List.append_assoc]⟩
  exact ⟨hgrown, fun r hc he => step_of_commandPhase (commandPhase_of_length_ne hc he (extends_ne hgrown))⟩

end Sys2Proof.Machine
end

/-! ### What a turn of another agent leaves alone (20_memory.md R66, 60_exceptions.md R254) -/

section
namespace Sys2Proof.Machine

section OtherAgents
variable (m : AgentMove) (s : State)

@[simp] theorem agentStep_axes : (agentStep m s).axes = s.axes := by cases m <;> rfl
@[simp] theorem agentStep_allCalibrated : (agentStep m s).allCalibrated = s.allCalibrated := by cases m <;> rfl
@[simp] theorem agentStep_stepPin : (agentStep m s).stepPin = s.stepPin := by cases m <;> rfl
@[simp] theorem agentStep_pump1On : (agentStep m s).pump1On = s.pump1On := by cases m <;> rfl
@[simp] theorem agentStep_pump2On : (agentStep m s).pump2On = s.pump2On := by cases m <;> rfl
@[simp] theorem agentStep_trace : (agentStep m s).trace = s.trace := by cases m <;> rfl

@[simp] theorem axisRec_agentStep (k : Axis) : axisRec (agentStep m s) k = axisRec s k := by
  rw [axisRec, agentStep_axes, axisRec]

end OtherAgents

end Sys2Proof.Machine
end

/-! ### The cases of phase 4 for one axis (42_engine.md R144 to R153) -/

section
namespace Sys2Proof.Machine

section Phase4Cases
variable {s : State} {k : Axis}

theorem completesPass_iff :
    completesPass s k = true ↔ (axisRec s k).running = true ∧ (axisRec s k).stepsRemaining ≤ 1 := by
  simp [completesPass]

theorem correctionDue_iff :
    correctionDue s k = true ↔ (axisRec s k).correcting = false ∧ s.cfg.posUnit.get k ≤ passError s k := by
  simp [correctionDue]

/-- An axis finishes when it completes a pass and either was correcting or is less than one unit off (R151, R153). -/
theorem finishes_iff :
    finishes s k = true ↔
      completesPass s k = true ∧ ((axisRec s k).correcting = true ∨ passError s k < s.cfg.posUnit.get k) := by
  cases hcor : (axisRec s k).correcting <;> simp [finishes, correctionDue, hcor]

/-- An axis that completes no pass makes at most its step (R144, R148). -/
theorem phase4Rec_of_not_completesPass (h : completesPass s k = false) : phase4Rec s k = steppedRec s k := by
  simp [phase4Rec, h]

/-- A completed move pass that is a unit or more off hands over to its correction pass (R150, R151). -/
theorem phase4Rec_of_correctionDue (h : completesPass s k = true) (hdue : correctionDue s k = true) :
    phase4Rec s k = { steppedRec s k with
      encoderPosition := s.enc.get k
      direction := decide (s.enc.get k < advanced s k)
      stepsRemaining := passError s k / s.cfg.posUnit.get k
      correcting := true } := by
  simp [phase4Rec, h, hdue]

/-- An axis that finishes takes the snapshot and drops its flags (R150, R152). -/
theorem phase4Rec_of_finishes (h : finishes s k = true) :
    phase4Rec s k = { steppedRec s k with
      encoderPosition := s.enc.get k, running := false, correcting := false } := by
  simp only [finishes, Bool.and_eq_true, Bool.not_eq_true'] at h
  obtain ⟨hpass, hdue⟩ := h
  simp [phase4Rec, hpass, hdue]

/-- The three cases of phase 4 for one axis: no pass completed, a correction pass started, or finished. -/
theorem phase4_cases (s : State) (k : Axis) :
    completesPass s k = false ∨ (completesPass s k = true ∧ correctionDue s k = true) ∨ finishes s k = true := by
  cases hpass : completesPass s k <;> cases hdue : correctionDue s k <;> simp [finishes, hpass, hdue]

/-- A running axis that completes no pass has more than its next step left (R149). -/
theorem one_lt_steps_of_not_completesPass (h : completesPass s k = false) (hrun : (axisRec s k).running = true) :
    1 < (axisRec s k).stepsRemaining :=
  Nat.lt_of_not_le fun hle => by simp [completesPass_iff.2 ⟨hrun, hle⟩] at h

/-- A correction pass has at least one step (R151). -/
theorem correction_steps_pos (hunit : 1 ≤ s.cfg.posUnit.get k) (hdue : correctionDue s k = true) :
    0 < passError s k / s.cfg.posUnit.get k :=
  Nat.div_pos (correctionDue_iff.1 hdue).2 hunit

end Phase4Cases

section CommandPhase
variable {s u : State} {r : List Turn}

/-- Phases 3 and 4 run with units of at least 1 (R3). -/
theorem commandPhase_posUnit (h : CommandPhase s r u) (k : Axis) : 1 ≤ u.cfg.posUnit.get k := by
  obtain ⟨hcfg, -⟩ := commandPhase_frame h
  obtain ⟨-, hc, -⟩ := h
  rw [hcfg]
  exact (configOk_iff.1 hc).1 k

/-- Phases 3 and 4 run with positions of at least 16 bits (R3). -/
theorem commandPhase_wPos (h : CommandPhase s r u) : 16 ≤ u.cfg.wPos := by
  obtain ⟨hcfg, -⟩ := commandPhase_frame h
  obtain ⟨-, hc, -⟩ := h
  rw [hcfg]
  exact (configOk_iff.1 hc).2

end CommandPhase

end Sys2Proof.Machine
end

/-! ### R34 and R35 are kept (10_state.md section 3, 42_engine.md R155, R156) -/

section
namespace Sys2Proof.Machine

/-- Phase 4 restores R34 and R35 for an axis whose steps are counted as running and which corrects only with steps
left, as a command phase leaves it. -/
theorem axisPassInv_phase4Rec {s : State} {k : Axis} (hunit : 1 ≤ s.cfg.posUnit.get k)
    (hrun : 0 < (axisRec s k).stepsRemaining → (axisRec s k).running = true)
    (hcor : (axisRec s k).correcting = true → 0 < (axisRec s k).stepsRemaining) :
    AxisPassInv (phase4Rec s k) := by
  rcases phase4_cases s k with hno | ⟨hpass, hdue⟩ | hfin
  · rw [phase4Rec_of_not_completesPass hno]
    have hmore := one_lt_steps_of_not_completesPass hno
    exact ⟨⟨fun hr => Nat.sub_pos_of_lt (hmore hr), fun hpos => hrun (Nat.lt_of_lt_of_le hpos (Nat.sub_le _ _))⟩,
      fun hc => Nat.sub_pos_of_lt (hmore (hrun (hcor hc)))⟩
  · rw [phase4Rec_of_correctionDue hpass hdue]
    have hsteps := correction_steps_pos hunit hdue
    exact ⟨iff_of_true (completesPass_iff.1 hpass).1 hsteps, fun _ => hsteps⟩
  · rw [phase4Rec_of_finishes hfin]
    obtain ⟨-, hle⟩ := completesPass_iff.1 (finishes_iff.1 hfin).1
    simp [AxisPassInv, steppedRec, hle]

/-- Settles O21: a command phase breaks R34 only for a Move of count 0, and phase 4 of the same iteration completes
that pass; no other agent writes an axis record. -/
theorem stepKeepsPassInvariant : Obligations.StepKeepsPassInvariant := by
  refine ⟨fun s t hs ht k => ?_, fun c k => ?_⟩
  · obtain ⟨-, ⟨r, u, hu, rfl⟩ | ⟨m, r, -, rfl⟩⟩ := step_cases ht
    · obtain ⟨hrun, hcor⟩ := commandPhase_pass hs hu k
      rw [axisRec_motionPhases]
      exact axisPassInv_phase4Rec (commandPhase_posUnit hu k) hrun hcor
    · rw [axisRec_agentStep]
      exact hs k
  · rw [axisRec_powerOn]
    simp [AxisPassInv, powerOnAxis]

/-- Settles O17: the half of R34 that a command phase keeps, and one running axis makes the count positive. -/
theorem steppingAxisIsCounted : Obligations.SteppingAxisIsCounted := by
  intro s u r k hs hu hpos
  obtain ⟨hrun, -⟩ := commandPhase_pass hs hu k
  exact ⟨hrun hpos, totalRunning_pos (hrun hpos)⟩

end Sys2Proof.Machine
end

/-! ### Widths are kept (10_state.md R22 to R25, R30, R31, R38) -/

section
namespace Sys2Proof.Machine

/-- A count of 15 bits fits every well-formed width (R3, R82). -/
theorem moveCount_lt {n : Nat} (h : 16 ≤ n) (count : BitVec 15) : count.toNat < 2 ^ n :=
  count.isLt.trans_le (Nat.pow_le_pow_right (by decide) (by omega))

/-- A command phase keeps the widths of every axis record. -/
theorem commandPhase_axisRange {s u : State} {r : List Turn} (h : CommandPhase s r u) (k : Axis)
    (hs : AxisRangeInv s.cfg.wPos (axisRec s k)) : AxisRangeInv s.cfg.wPos (axisRec u k) := by
  have hwidth : 16 ≤ s.cfg.wPos := by
    obtain ⟨hcfg, -⟩ := commandPhase_frame h
    exact hcfg ▸ commandPhase_wPos h
  have hzero := inSigned_zero s.cfg.wPos
  have hpow : 0 < 2 ^ s.cfg.wPos := Nat.two_pow_pos _
  obtain ⟨htarget, hest, henc, hsteps, hmicro, herr⟩ := hs
  rcases commandPhase_rec h k with e | e | e | ⟨d, n, e⟩ | ⟨v, e⟩ | e <;> rw [e]
  · exact ⟨htarget, hest, henc, hsteps, hmicro, herr⟩
  · exact ⟨htarget, hest, henc, hpow, hmicro, herr⟩
  · exact ⟨htarget, hzero, henc, hsteps, hmicro, herr⟩
  · exact ⟨htarget, hest, henc, moveCount_lt hwidth n, hmicro, herr⟩
  · exact ⟨htarget, hest, henc, hsteps, hmicro, herr⟩
  · exact ⟨hzero, hzero, hzero, hpow, hmicro, herr⟩

/-- An estimate stays in range: it is kept, or wrapped (R146). -/
theorem advanced_inSigned {s : State} {k : Axis} (hwidth : 16 ≤ s.cfg.wPos)
    (h : InSigned s.cfg.wPos (axisRec s k).expectedPosition) : InSigned s.cfg.wPos (advanced s k) := by
  rw [advanced_eq_ite]
  split
  · exact wrapS_inSigned (by omega) _
  · exact h

/-- Phase 4 keeps the widths of an axis record; a correction's count is at most a distance of two values in range. -/
theorem axisRangeInv_phase4Rec {s : State} {k : Axis} (hwidth : 16 ≤ s.cfg.wPos)
    (hrec : AxisRangeInv s.cfg.wPos (axisRec s k)) (hcounter : InSigned s.cfg.wPos (s.enc.get k)) :
    AxisRangeInv s.cfg.wPos (phase4Rec s k) := by
  obtain ⟨htarget, hest, henc, hsteps, hmicro, herr⟩ := hrec
  have hadv := advanced_inSigned hwidth hest
  have hstepped : (axisRec s k).stepsRemaining - 1 < 2 ^ s.cfg.wPos := (Nat.sub_le _ _).trans_lt hsteps
  rcases phase4_cases s k with hno | ⟨hpass, hdue⟩ | hfin
  · rw [phase4Rec_of_not_completesPass hno]
    exact ⟨htarget, hadv, henc, hstepped, hmicro, herr⟩
  · rw [phase4Rec_of_correctionDue hpass hdue]
    have hdist : passError s k < 2 ^ s.cfg.wPos := distance_lt (by omega) hadv hcounter
    exact ⟨htarget, hadv, hcounter, (Nat.div_le_self _ _).trans_lt hdist, hmicro, herr⟩
  · rw [phase4Rec_of_finishes hfin]
    exact ⟨htarget, hadv, hcounter, hstepped, hmicro, herr⟩

/-- An edge writes its counter wrapped, and no other (R102). -/
theorem trackerEdge_enc (j k : Axis) (c : Channel) (a b : Bool) (s : State) :
    (trackerEdge j c a b s).enc.get k =
      if k = j then wrapS s.cfg.wPos (s.enc.get j + edgeDelta s.cfg c a b) else s.enc.get k := by
  simp [trackerEdge, PerAxis.get_set]

/-- Another agent's turn keeps every counter in range (R38, R102). -/
theorem agentStep_enc_inSigned (m : AgentMove) {s : State} (hwidth : 16 ≤ s.cfg.wPos) (k : Axis)
    (h : InSigned s.cfg.wPos (s.enc.get k)) : InSigned s.cfg.wPos ((agentStep m s).enc.get k) := by
  cases m with
  | trackerEdge j c =>
    rw [agentStep, trackerEdge_enc]
    split_ifs
    · exact wrapS_inSigned (by omega) _
    · exact h
  | encoderLevels => exact h
  | hostSend => exact h
  | hostRead => exact h

/-- Settles O22: the command phase, phase 4 and the trackers each keep the widths. -/
theorem stepKeepsRanges : Obligations.StepKeepsRanges := by
  intro s t hs ht k
  obtain ⟨hrec, hcounter⟩ := hs k
  rw [step_keeps_cfg ht]
  obtain ⟨hc, ⟨r, u, hu, rfl⟩ | ⟨m, r, -, rfl⟩⟩ := step_cases ht
  · obtain ⟨hcfg, henc, -⟩ := commandPhase_frame hu
    have hu_rec := commandPhase_axisRange hu k hrec
    rw [← henc] at hcounter
    rw [← hcfg] at hcounter hu_rec ⊢
    rw [axisRec_motionPhases, motionPhases_enc]
    exact ⟨axisRangeInv_phase4Rec (commandPhase_wPos hu) hu_rec hcounter, hcounter⟩
  · rw [axisRec_agentStep]
    exact ⟨hrec, agentStep_enc_inSigned m (s := { s with turns := r }) (configOk_iff.1 hc).2 k hcounter⟩

end Sys2Proof.Machine
end

/-! ### `all_calibrated` (10_state.md R36) -/

section
namespace Sys2Proof.Machine

/-- The flag and the `calibrated` fields are all that R36 reads. -/
theorem calibrationInv_congr {s t : State} (hflag : t.allCalibrated = s.allCalibrated)
    (hrec : ∀ k, (axisRec t k).calibrated = (axisRec s k).calibrated) (hs : CalibrationInv s) :
    CalibrationInv t := by
  simpa only [CalibrationInv, hflag, hrec] using hs

/-- Calibrate sets the flag with the last of the five axes, and before that the flag was and stays false (R182). -/
theorem calibrationInv_calibrateAxis {s : State} (k : Axis) (hs : CalibrationInv s) :
    CalibrationInv (calibrateAxis k s) := by
  by_cases hothers : ∀ j, j ≠ k → (axisRec s j).calibrated = true
  · refine iff_of_true (by rw [calibrateAxis_of_others hothers]) fun j => ?_
    rw [axisRec_calibrate]
    split_ifs with hj
    · rfl
    · exact hothers j hj
  · push Not at hothers
    obtain ⟨j, hj, hcal⟩ := hothers
    have hcal : (axisRec s j).calibrated = false := by simpa using hcal
    have hflag : (calibrateAxis k s).allCalibrated = s.allCalibrated := by
      rw [calibrateAxis_of_other hj hcal, setAxisRec_allCalibrated]
    have hj_after : (axisRec (calibrateAxis k s) j).calibrated = false := by
      rw [axisRec_calibrate, if_neg hj, hcal]
    refine iff_of_false (fun h => ?_) fun h => ?_
    · simpa [hcal] using hs.1 (hflag ▸ h) j
    · simpa [hj_after] using h j

/-- Writing a record whose `calibrated` field is the old one keeps R36. -/
theorem calibrationInv_setAxisRec {s : State} {j : Axis} {m : MotorAxis}
    (hm : m.calibrated = (axisRec s j).calibrated) (hs : CalibrationInv s) : CalibrationInv (setAxisRec j m s) := by
  refine calibrationInv_congr (setAxisRec_allCalibrated s j m) (fun k => ?_) hs
  by_cases hk : k = j
  · rw [hk, axisRec_setAxisRec_same, hm]
  · rw [axisRec_setAxisRec_ne s m hk]

/-- Every command keeps R36. -/
theorem calibrationInv_afterExec (i : Instr) {s : State} (hs : CalibrationInv s) :
    CalibrationInv (afterExec i s) := by
  cases i with
  | stop =>
    refine calibrationInv_congr ?_ (fun k => by rw [afterExec, axisRec_stop]) hs
    rw [afterExec, stop_frame]
  | cal =>
    rw [afterExec]
    split
    · exact calibrationInv_calibrateAxis _ hs
    · exact hs
  | move =>
    rw [afterExec]
    split
    · exact calibrationInv_setAxisRec rfl hs
    · exact hs
  | setp =>
    rw [afterExec]
    split
    · exact calibrationInv_setAxisRec rfl hs
    · exact hs
  | reset p1 p2 p3 =>
    have hcal : (axisRec (afterExec (.reset p1 p2 p3) s) .a1).calibrated = false :=
      congrArg MotorAxis.calibrated (axisRec_reset s .a1)
    exact iff_of_false (by rw [afterExec_reset]; exact Bool.false_ne_true) fun h =>
      Bool.false_ne_true (hcal.symm.trans (h .a1))
  | pump x y z =>
    obtain ⟨haxes, hflag⟩ := afterExec_peripheral_axes (.pump x y z) s (.inl ⟨x, y, z, rfl⟩)
    exact calibrationInv_congr hflag (fun k => by rw [axisRec, haxes, axisRec]) hs
  | light x y z =>
    obtain ⟨haxes, hflag⟩ := afterExec_peripheral_axes (.light x y z) s (.inr ⟨x, y, z, rfl⟩)
    exact calibrationInv_congr hflag (fun k => by rw [axisRec, haxes, axisRec]) hs
  | invalid => exact hs

/-- Phase 4 writes no `calibrated` field. -/
@[simp] theorem phase4Rec_calibrated (s : State) (k : Axis) :
    (phase4Rec s k).calibrated = (axisRec s k).calibrated := by
  unfold phase4Rec
  split_ifs <;> rfl

/-- Settles O23: only the commands write the flag or a `calibrated` field. -/
theorem stepKeepsCalibrationFlag : Obligations.StepKeepsCalibrationFlag := by
  intro s t hs ht
  obtain ⟨-, ⟨r, u, hu, rfl⟩ | ⟨m, r, -, rfl⟩⟩ := step_cases ht
  · have hu_inv : CalibrationInv u := by
      rcases commandPhase_cases hu with ⟨-, rfl⟩ | ⟨i, -, rfl⟩
      · exact hs
      · exact calibrationInv_afterExec i (s := consumedState s r) hs
    exact calibrationInv_congr (motionPhases_allCalibrated u)
      (fun k => by rw [axisRec_motionPhases, phase4Rec_calibrated]) hu_inv
  · exact calibrationInv_congr (agentStep_allCalibrated m _) (fun k => by rw [axisRec_agentStep]) hs

end Sys2Proof.Machine
end

/-! ### What a command writes to the queues, the pumps and the trace (60_exceptions.md R240, R241) -/

section
namespace Sys2Proof.Machine

/-- A call of one of the LED drivers (R44, R45). -/
def isLedCall : Event → Bool
  | .statusLed _ | .ringPixel _ _ _ _ | .ringPush _ | .ringReset => true
  | _ => false

/-- Everything a command that raises no error can write to `tx`, the pumps and the trace: Stop's replies, a pump
request, or calls of the LED drivers. -/
inductive Answers (s t : State) : Prop
  | stop (h : t = forEachAxis stopAxis s)
  | pump (p : PumpCmd) (h : t = drivePump p s)
  | leds (es : List Event) (htx : t.tx = s.tx) (hpump1 : t.pump1On = s.pump1On) (hpump2 : t.pump2On = s.pump2On)
      (htrace : t.trace = s.trace ++ es) (hled : ∀ e ∈ es, isLedCall e = true)

/-- Calibrate sends at most a colour (R182). -/
theorem answers_calibrateAxis (k : Axis) (s : State) : Answers s (calibrateAxis k s) := by
  by_cases hothers : ∀ j, j ≠ k → (axisRec s j).calibrated = true
  · rw [calibrateAxis_of_others hothers]
    exact .leds [.statusLed s.cfg.colorCal] rfl rfl rfl rfl (by simp [isLedCall])
  · push Not at hothers
    obtain ⟨j, hj, hcal⟩ := hothers
    rw [calibrateAxis_of_other hj (by simpa using hcal)]
    exact .leds [] rfl rfl rfl (List.append_nil _).symm (by simp)

/-- Light calls the LED drivers and nothing else (R221). -/
theorem answers_driveLight (l : LightCmd) (s : State) : Answers s (driveLight l s) := by
  obtain ⟨hpump1, hpump2⟩ := driveLight_pumps s l
  cases l with
  | status st clearRing =>
    refine .leds _ ?_ hpump1 hpump2 (congrArg State.trace (driveLight_status s st clearRing)) ?_
    · rw [driveLight_status]
    · cases clearRing <;> simp [isLedCall]
  | pixel index r g b nonBlocking =>
    refine .leds _ ?_ hpump1 hpump2 (congrArg State.trace (driveLight_pixel s index r g b nonBlocking)) ?_
    · rw [driveLight_pixel]
    · simp [isLedCall]

/-- A command that raises ProtocolError writes its reply and does nothing else (R241). -/
theorem afterExec_of_raisesError {i : Instr} {s : State} (h : RaisesError s.cfg i) :
    afterExec i s = withErrorReply s := by
  cases i with
  | stop => exact h.elim
  | reset => exact h.elim
  | cal => rw [afterExec, axisOf_eq_none.2 h]
  | move => rw [afterExec, axisOf_eq_none.2 h]
  | setp => rw [afterExec, axisOf_eq_none.2 h]
  | pump => simp only [RaisesError] at h; simp [afterExec, h]
  | light => simp only [RaisesError] at h; simp [afterExec, h]
  | invalid => rfl

/-- A selector in range names an axis (R83, R180). -/
theorem exists_axisOf_of_not_selectsNone {c : Params} {sel : Byte} (h : ¬SelectsNone c sel) :
    ∃ k, axisOf c sel = some k :=
  Option.ne_none_iff_exists'.1 (mt axisOf_eq_none.1 h)

/-- A command that raises no ProtocolError answers in one of the three ways. -/
theorem afterExec_answers {i : Instr} {s : State} (h : ¬RaisesError s.cfg i) : Answers s (afterExec i s) := by
  cases i with
  | stop => exact .stop rfl
  | cal =>
    obtain ⟨k, hk⟩ := exists_axisOf_of_not_selectsNone h
    simpa [afterExec, hk] using answers_calibrateAxis k s
  | move sel dir count =>
    obtain ⟨k, hk⟩ := exists_axisOf_of_not_selectsNone h
    rw [afterExec, hk]
    exact .leds [] rfl rfl rfl (List.append_nil _).symm (by simp)
  | setp =>
    obtain ⟨k, hk⟩ := exists_axisOf_of_not_selectsNone h
    rw [afterExec, hk]
    exact .leds [] rfl rfl rfl (List.append_nil _).symm (by simp)
  | pump =>
    obtain ⟨p, hp⟩ := Option.ne_none_iff_exists'.1 h
    exact .pump p (by simp [afterExec, hp])
  | light =>
    obtain ⟨l, hl⟩ := Option.ne_none_iff_exists'.1 h
    simpa [afterExec, hl] using answers_driveLight l s
  | reset =>
    rw [afterExec_reset]
    exact .leds _ rfl rfl rfl rfl (by simp [isLedCall])
  | invalid => exact absurd trivial h

/-- A pump request's calls (R220). -/
def pumpCalls (p : PumpCmd) : List Event :=
  if p.on then [.pumpSet p.channel.other false, .pumpSet p.channel true] else [.pumpSet p.channel false]

theorem drivePump_trace (p : PumpCmd) (s : State) : (drivePump p s).trace = s.trace ++ pumpCalls p := by
  obtain ⟨c, on⟩ := p
  cases on
  · rw [drivePump_off, setPump_eq]; rfl
  · rw [drivePump_on]; rfl

theorem drivePump_tx (p : PumpCmd) (s : State) : (drivePump p s).tx = s.tx := by
  obtain ⟨c, on⟩ := p
  cases on
  · rw [drivePump_off, setPump_eq]
  · rw [drivePump_on]

/-- A completion reply is not the error reply (R89, R90). -/
theorem doneEvent_ne_errorEvent (k : Axis) : doneEvent k ≠ errorEvent := by
  simp [doneEvent, errorEvent]

/-- Settles O53: a raising frame is `withErrorReply`, and none of the three ways to answer writes `E010`. -/
theorem errorTaxonomy : Obligations.ErrorTaxonomy := by
  refine fun i s => ⟨fun h => ?_, fun h => ?_⟩
  · rw [exec_eq, afterExec_of_raisesError h]
  · cases afterExec_answers h with
    | stop hstop =>
      refine ⟨_, _, exec_eq s i, by rw [hstop, stop_trace], fun hmem => ?_⟩
      obtain ⟨k, -, hk⟩ := List.mem_map.1 hmem
      exact doneEvent_ne_errorEvent k hk
    | pump p hp =>
      refine ⟨_, _, exec_eq s i, by rw [hp, drivePump_trace], ?_⟩
      unfold pumpCalls
      split <;> simp [errorEvent]
    | leds es _ _ _ htrace hled =>
      exact ⟨_, es, exec_eq s i, htrace, fun hmem => Bool.false_ne_true (hled _ hmem)⟩

/-- Settles O54: the command phase of a raising frame is its error reply. -/
theorem protocolErrorIsPrecise : Obligations.ProtocolErrorIsPrecise := by
  intro s r i hc he hi hraise
  rw [step_of_commandPhase (commandPhase_of_decode hc he hi),
    afterExec_of_raisesError (s := consumedState s r) hraise]

end Sys2Proof.Machine
end

/-! ### At most one pump is on at every point of the trace (44_peripheral_commands.md R223) -/

section
namespace Sys2Proof.Machine

/-- A call of the pump driver (R43). -/
def isPumpCall : Event → Bool
  | .pumpSet _ _ => true
  | _ => false

/-- A call of an LED driver is none of the pump driver. -/
theorem isPumpCall_of_isLedCall {e : Event} (h : isLedCall e = true) : isPumpCall e = false := by
  cases e with
  | pumpSet => cases h
  | _ => rfl

/-- An event that is no pump call leaves the levels (R43). -/
theorem pumpAfter_of_quiet {e : Event} (h : isPumpCall e = false) (p : Bool × Bool) : pumpAfter p e = p := by
  cases e with
  | pumpSet => cases h
  | _ => rfl

/-- Events that are no pump call leave the levels (R43). -/
theorem foldl_pumpAfter_of_quiet {es : List Event} (hes : ∀ e ∈ es, isPumpCall e = false) (p : Bool × Bool) :
    es.foldl pumpAfter p = p := by
  induction es with
  | nil => rfl
  | cons e es ih =>
    rw [List.foldl_cons, pumpAfter_of_quiet (hes e List.mem_cons_self),
      ih fun x hx => hes x (List.mem_cons_of_mem e hx)]

/-- R223 at the end of the trace: the two pumps are not both on. -/
theorem pumpInv_exclusive {s : State} (hs : PumpInv s) : ¬(s.pump1On = true ∧ s.pump2On = true) := by
  obtain ⟨hlevels, hpoints⟩ := hs
  have hall := hpoints s.trace.length
  rwa [List.take_length, hlevels] at hall

/-- R223 after more events: it is enough that the levels end as recorded and that nowhere in the new events both
pumps are left on. -/
theorem pumpInv_append {s t : State} {es : List Event} (hs : PumpInv s) (htrace : t.trace = s.trace ++ es)
    (hlevels : es.foldl pumpAfter (s.pump1On, s.pump2On) = (t.pump1On, t.pump2On))
    (hpoints : ∀ n, ¬(((es.take n).foldl pumpAfter (s.pump1On, s.pump2On)).1 = true ∧
      ((es.take n).foldl pumpAfter (s.pump1On, s.pump2On)).2 = true)) : PumpInv t := by
  obtain ⟨hlevels_s, hpoints_s⟩ := hs
  have hafter (fs : List Event) :
      pumpsAfter (s.trace ++ fs) = fs.foldl pumpAfter (s.pump1On, s.pump2On) := by
    rw [pumpsAfter, List.foldl_append, ← pumpsAfter, hlevels_s]
  refine ⟨by rw [htrace, hafter, hlevels], fun n => ?_⟩
  rw [htrace, List.take_append]
  rcases Nat.le_total n s.trace.length with hn | hn
  · rw [Nat.sub_eq_zero_of_le hn, List.take_zero, List.append_nil]
    exact hpoints_s n
  · rw [List.take_of_length_le hn, hafter]
    exact hpoints _

/-- R223 after events that are no pump call. -/
theorem pumpInv_append_quiet {s t : State} {es : List Event} (hs : PumpInv s) (htrace : t.trace = s.trace ++ es)
    (hpump1 : t.pump1On = s.pump1On) (hpump2 : t.pump2On = s.pump2On)
    (hes : ∀ e ∈ es, isPumpCall e = false) : PumpInv t := by
  refine pumpInv_append hs htrace (by rw [foldl_pumpAfter_of_quiet hes, hpump1, hpump2]) fun n => ?_
  rw [foldl_pumpAfter_of_quiet fun e he => hes e (List.mem_of_mem_take he)]
  exact pumpInv_exclusive hs

/-- A pump request keeps R223: the other channel is off before one goes on (R220). -/
theorem pumpInv_drivePump (p : PumpCmd) {s : State} (hs : PumpInv s) : PumpInv (drivePump p s) := by
  have hexcl := pumpInv_exclusive hs
  obtain ⟨c, on⟩ := p
  refine pumpInv_append hs (drivePump_trace _ s) ?_ fun n => ?_
  · cases c <;> cases on <;> rfl
  · rcases n with _ | _ | n
    · exact hexcl
    all_goals cases c <;> cases on <;> simp [pumpCalls, pumpAfter, PumpChannel.other]

/-- Every command keeps R223. -/
theorem pumpInv_afterExec (i : Instr) {s : State} (hs : PumpInv s) : PumpInv (afterExec i s) := by
  by_cases hraise : RaisesError s.cfg i
  · rw [afterExec_of_raisesError hraise]
    exact pumpInv_append_quiet hs rfl rfl rfl (by simp [errorEvent, isPumpCall])
  · cases afterExec_answers hraise with
    | stop hstop =>
      rw [hstop]
      refine pumpInv_append_quiet hs (stop_trace s) (by rw [stop_frame]) (by rw [stop_frame]) fun e he => ?_
      obtain ⟨k, -, rfl⟩ := List.mem_map.1 he
      rfl
    | pump p hp =>
      rw [hp]
      exact pumpInv_drivePump p hs
    | leds es _ hpump1 hpump2 htrace hled =>
      exact pumpInv_append_quiet hs htrace hpump1 hpump2 fun e he => isPumpCall_of_isLedCall (hled e he)

/-- Phase 1 calls no pump (R141). -/
theorem not_isPumpCall_clearEvents : ∀ e ∈ clearEvents, isPumpCall e = false := by
  intro e he
  obtain ⟨k, -, hk⟩ := List.mem_flatMap.1 he
  rcases List.mem_pair.1 hk with rfl | rfl <;> rfl

/-- Phase 4 calls no pump. -/
theorem not_isPumpCall_phase4Events (s : State) (total : Nat) (k : Axis) :
    ∀ e ∈ phase4Events s total k, isPumpCall e = false := by
  unfold phase4Events
  split_ifs <;> simp [stepEvents, doneEvent, isPumpCall]

/-- A command phase keeps R223. -/
theorem pumpInv_commandPhase {s u : State} {r : List Turn} (h : CommandPhase s r u) (hs : PumpInv s) :
    PumpInv u := by
  rcases commandPhase_cases h with ⟨-, rfl⟩ | ⟨i, -, rfl⟩
  · refine pumpInv_append_quiet hs (es := clearEvents ++ [.rxCount]) ?_ rfl rfl
      (List.forall_mem_append.2 ⟨not_isPumpCall_clearEvents, by simp [isPumpCall]⟩)
    rw [polledState_trace, List.append_assoc]
  · refine pumpInv_afterExec i (pumpInv_append_quiet hs
      (es := clearEvents ++ [.rxCount, .rxPop, .rxPop, .rxPop, .rxPop]) ?_ rfl rfl
      (List.forall_mem_append.2 ⟨not_isPumpCall_clearEvents, by simp [isPumpCall]⟩))
    rw [consumedState_trace, List.append_assoc]

/-- Settles O24: of all events only those of a Pump command are pump calls. -/
theorem stepKeepsPumpsExclusive : Obligations.StepKeepsPumpsExclusive := by
  intro s t hs ht
  have ht_inv : PumpInv t := by
    obtain ⟨-, ⟨r, u, hu, rfl⟩ | ⟨m, r, -, rfl⟩⟩ := step_cases ht
    · refine pumpInv_append_quiet (pumpInv_commandPhase hu hs) (motionPhases_trace u) (motionPhases_pump1On u)
        (motionPhases_pump2On u) fun e he => ?_
      obtain ⟨k, -, hk⟩ := List.mem_flatMap.1 he
      exact not_isPumpCall_phase4Events u _ k e hk
    · simpa only [PumpInv, agentStep_trace, agentStep_pump1On, agentStep_pump2On] using hs
  exact ⟨ht_inv, pumpInv_exclusive ht_inv⟩

end Sys2Proof.Machine
end

/-! ### Timing values and unread registers reach nothing else (10_state.md R22, R29 to R31, R279) -/

section
namespace Sys2Proof.Machine

section Erase
variable (timing unread : Bool)

/-- The parameters, without the timing ones when `timing` says so (R29, R279). -/
def eraseCfg (c : Params) : Params :=
  { c with
    tHigh := if timing then 0 else c.tHigh
    tLow := if timing then 0 else c.tLow
    periodTable := if timing then [] else c.periodTable }

/-- An axis record, without its timing and without its unread registers as the two flags say. -/
def eraseRec (a : MotorAxis) : MotorAxis :=
  { a with
    periodTicks := if timing then 0#16 else a.periodTicks
    targetPosition := if unread then 0 else a.targetPosition
    microstepDivisor := if unread then 0 else a.microstepDivisor
    errorThreshold := if unread then 0 else a.errorThreshold }

/-- An event, without its timing when `timing` says so (R279). -/
def eraseEvent (e : Event) : Event := if timing then hideEventTiming e else e

/-- A state, without its timing and without its unread registers as the two flags say: `hideTiming` and `hideUnread`
are its two halves. -/
def erase (s : State) : State :=
  { s with
    cfg := eraseCfg timing s.cfg
    axes := mapAxes (eraseRec timing unread) s.axes
    trace := s.trace.map (eraseEvent timing) }

theorem erase_timing : erase true false = hideTiming := rfl

theorem erase_unread : erase false true = hideUnread := by
  funext s
  have htrace : s.trace.map (eraseEvent false) = s.trace := List.map_id' s.trace
  simp only [erase, htrace]
  rfl

@[simp] theorem mapAxes_set (f : MotorAxis → MotorAxis) (p : PerAxis MotorAxis) (k : Axis) (m : MotorAxis) :
    mapAxes f (p.set k m) = (mapAxes f p).set k (f m) := by
  cases k <;> rfl

@[simp] theorem axisRec_erase (s : State) (k : Axis) :
    axisRec (erase timing unread s) k = eraseRec timing unread (axisRec s k) := by
  cases k <;> rfl

@[simp] theorem eraseCfg_eraseCfg (c : Params) : eraseCfg timing (eraseCfg timing c) = eraseCfg timing c := by
  cases timing <;> rfl

@[simp] theorem eraseRec_eraseRec (a : MotorAxis) :
    eraseRec timing unread (eraseRec timing unread a) = eraseRec timing unread a := by
  cases timing <;> cases unread <;> rfl

@[simp] theorem mapAxes_eraseRec_twice (p : PerAxis MotorAxis) :
    mapAxes (eraseRec timing unread) (mapAxes (eraseRec timing unread) p) = mapAxes (eraseRec timing unread) p :=
  PerAxis.ext_get fun k => by simp [mapAxes]

@[simp] theorem eraseEvent_comp_eraseEvent : eraseEvent timing ∘ eraseEvent timing = eraseEvent timing := by
  funext e
  cases timing <;> cases e <;> rfl

/-- Erasing twice erases nothing more. -/
@[simp] theorem erase_erase (s : State) : erase timing unread (erase timing unread s) = erase timing unread s := by
  simp [erase]

/-- Only a pulse carries timing (R147). -/
theorem map_eraseEvent_of_noPulse {es : List Event} (h : ∀ k, pulseDelays k es = []) :
    es.map (eraseEvent timing) = es := by
  induction es with
  | nil => rfl
  | cons e es ih =>
    cases e with
    | pulseTiming k => simpa [pulseDelays] using h k
    | _ => exact congrArg₂ List.cons (by cases timing <;> rfl) (ih h)

/-- Erasing commutes with an emission that carries no timing. -/
theorem erase_emit {e : Event} (he : eraseEvent timing e = e) (s : State) :
    erase timing unread (emit e s) = emit e (erase timing unread s) := by
  simp only [erase, emit, List.map_append, List.map_cons, List.map_nil, he]

theorem erase_setAxisRec (k : Axis) (m : MotorAxis) (s : State) :
    erase timing unread (setAxisRec k m s) =
      setAxisRec k (eraseRec timing unread m) (erase timing unread s) := by
  simp only [erase, setAxisRec, mapAxes_set]

theorem erase_withErrorReply (s : State) :
    erase timing unread (withErrorReply s) = withErrorReply (erase timing unread s) := by
  have herror : eraseEvent timing errorEvent = errorEvent := by cases timing <;> rfl
  simp only [erase, withErrorReply, List.map_append, List.map_cons, List.map_nil, herror]

theorem erase_setStatusLed (colour : Rgb) (s : State) :
    erase timing unread (setStatusLed colour s) = setStatusLed colour (erase timing unread s) :=
  erase_emit timing unread (by cases timing <;> rfl) { s with statusLed := colour }

theorem erase_setPump (c : PumpChannel) (on : Bool) (s : State) :
    erase timing unread (setPump c on s) = setPump c on (erase timing unread s) := by
  cases c
  · exact erase_emit timing unread (by cases timing <;> rfl) { s with pump1On := on }
  · exact erase_emit timing unread (by cases timing <;> rfl) { s with pump2On := on }

theorem erase_stopAxis (k : Axis) (s : State) :
    stopAxis k (erase timing unread s) = erase timing unread (stopAxis k s) := by
  have hdone : eraseEvent timing (doneEvent k) = doneEvent k := by cases timing <;> rfl
  have htrace (b : Bool) : (if b then [doneEvent k] else []).map (eraseEvent timing) =
      if b then [doneEvent k] else [] := by cases b <;> simp [hdone]
  rw [stopAxis_eq, stopAxis_eq, axisRec_erase]
  simp only [erase, mapAxes_set, List.map_append]
  rw [show (eraseRec timing unread (axisRec s k)).running = (axisRec s k).running from rfl, htrace]
  rfl

theorem erase_resetAxis (k : Axis) (s : State) :
    resetAxis k (erase timing unread s) = erase timing unread (resetAxis k s) := by
  rw [resetAxis, resetAxis, erase_setAxisRec, axisRec_erase]
  cases unread <;> rfl

theorem erase_calibrateAxis (k : Axis) (s : State) :
    calibrateAxis k (erase timing unread s) = erase timing unread (calibrateAxis k s) := by
  have hset : setAxisRec k
      { axisRec (erase timing unread s) k with calibrated := true, expectedPosition := 0 } (erase timing unread s) =
      erase timing unread (setAxisRec k { axisRec s k with calibrated := true, expectedPosition := 0 } s) := by
    rw [erase_setAxisRec, axisRec_erase]
    rfl
  have hall (t : State) : allFiveCalibrated (erase timing unread t) = allFiveCalibrated t := rfl
  simp only [calibrateAxis, hset, hall]
  split
  · exact (erase_setStatusLed timing unread _ { setAxisRec k _ s with allCalibrated := true }).symm
  · rfl

theorem erase_drivePump (p : PumpCmd) (s : State) :
    drivePump p (erase timing unread s) = erase timing unread (drivePump p s) := by
  unfold drivePump
  split <;> simp only [erase_setPump]

theorem erase_driveLight (l : LightCmd) (s : State) :
    driveLight l (erase timing unread s) = erase timing unread (driveLight l s) := by
  cases l with
  | status st clearRing =>
    have hring (t : State) : erase timing unread (emit .ringReset t) = emit .ringReset (erase timing unread t) :=
      erase_emit timing unread (by cases timing <;> rfl) t
    cases clearRing <;> simp only [driveLight, erase_setStatusLed, hring, if_true] <;> rfl
  | pixel index r g b nonBlocking =>
    simp only [driveLight]
    rw [erase_emit timing unread (by cases timing <;> rfl), erase_emit timing unread (by cases timing <;> rfl)]

theorem axisOf_erase (s : State) (sel : Byte) :
    axisOf (erase timing unread s).cfg sel = axisOf s.cfg sel := rfl

/-- No command but SetPeriod reads what is erased. -/
theorem afterExec_erase {i : Instr} (hi : ¬∃ p1 p2 p3, i = .setp p1 p2 p3) (s : State) :
    afterExec i (erase timing unread s) = erase timing unread (afterExec i s) := by
  cases i with
  | stop => exact forEachAxis_commutes (erase_stopAxis timing unread) s
  | reset =>
    have hloop := forEachAxis_commutes (erase_resetAxis timing unread) s
    rw [afterExec, afterExec, erase_setStatusLed, erase_emit timing unread (by cases timing <;> rfl), hloop]
    rfl
  | cal sel =>
    rw [afterExec, afterExec, axisOf_erase]
    cases axisOf s.cfg sel with
    | some k => exact erase_calibrateAxis timing unread k s
    | none => exact (erase_withErrorReply timing unread s).symm
  | move sel dir count =>
    rw [afterExec, afterExec, axisOf_erase]
    cases axisOf s.cfg sel with
    | some k => simp only [moveAxis, erase_setAxisRec, axisRec_erase]; rfl
    | none => exact (erase_withErrorReply timing unread s).symm
  | setp p1 p2 p3 => exact absurd ⟨p1, p2, p3, rfl⟩ hi
  | pump p1 p2 p3 =>
    rw [afterExec, afterExec,
      show pumpDecode (erase timing unread s).cfg p1 p2 p3 = pumpDecode s.cfg p1 p2 p3 from rfl]
    cases pumpDecode s.cfg p1 p2 p3 with
    | some p => exact erase_drivePump timing unread p s
    | none => exact (erase_withErrorReply timing unread s).symm
  | light p1 p2 p3 =>
    rw [afterExec, afterExec,
      show lightDecode (erase timing unread s).cfg p1 p2 p3 = lightDecode s.cfg p1 p2 p3 from rfl]
    cases lightDecode s.cfg p1 p2 p3 with
    | some l => exact erase_driveLight timing unread l s
    | none => exact (erase_withErrorReply timing unread s).symm
  | invalid => exact (erase_withErrorReply timing unread s).symm

/-- What SetPeriod reads of the erased parameters it writes to the erased `period_ticks` alone (R184). -/
theorem erase_afterExec_setp (p1 p2 p3 : Byte) (s : State) :
    erase timing unread (afterExec (.setp p1 p2 p3) (erase timing unread s)) =
      erase timing unread (afterExec (.setp p1 p2 p3) s) := by
  rw [afterExec, afterExec, axisOf_erase]
  cases axisOf s.cfg p1 with
  | some k =>
    simp only [setPeriodAxis, erase_setAxisRec, axisRec_erase, erase_erase]
    cases timing <;> cases unread <;> rfl
  | none => simp only [erase_withErrorReply, erase_erase]

theorem erase_afterExec (i : Instr) (s : State) :
    erase timing unread (afterExec i (erase timing unread s)) = erase timing unread (afterExec i s) := by
  by_cases hi : ∃ p1 p2 p3, i = .setp p1 p2 p3
  · obtain ⟨p1, p2, p3, rfl⟩ := hi
    exact erase_afterExec_setp timing unread p1 p2 p3 s
  · rw [afterExec_erase timing unread hi, erase_erase]

section Motion
variable (s : State) (k : Axis)

@[simp] theorem advanced_erase : advanced (erase timing unread s) k = advanced s k := by
  simp only [advanced, axisRec_erase]
  rfl

@[simp] theorem passError_erase : passError (erase timing unread s) k = passError s k := by
  rw [passError, advanced_erase]
  rfl

@[simp] theorem completesPass_erase : completesPass (erase timing unread s) k = completesPass s k := by
  rw [completesPass, axisRec_erase]
  rfl

@[simp] theorem correctionDue_erase : correctionDue (erase timing unread s) k = correctionDue s k := by
  rw [correctionDue, axisRec_erase, passError_erase]
  rfl

@[simp] theorem finishes_erase : finishes (erase timing unread s) k = finishes s k := by
  rw [finishes, completesPass_erase, correctionDue_erase, finishes]

@[simp] theorem advanceWraps_erase : advanceWraps (erase timing unread s) k = advanceWraps s k := by
  simp only [advanceWraps, axisRec_erase]
  rfl

theorem phase4Rec_erase : phase4Rec (erase timing unread s) k = eraseRec timing unread (phase4Rec s k) := by
  simp only [phase4Rec, steppedRec, axisRec_erase, advanced_erase, passError_erase, completesPass_erase,
    correctionDue_erase]
  split_ifs <;> rfl

/-- The events of phase 4 differ in the timing of a pulse alone (R147). -/
theorem map_eraseEvent_phase4Events (total : Nat) :
    (phase4Events (erase timing unread s) total k).map (eraseEvent timing) =
      (phase4Events s total k).map (eraseEvent timing) := by
  have hstep : (stepEvents (erase timing unread s) total k).map (eraseEvent timing) =
      (stepEvents s total k).map (eraseEvent timing) := by
    simp only [stepEvents, axisRec_erase]
    cases timing <;> rfl
  simp only [phase4Events, finishes_erase, axisRec_erase, List.map_append, apply_ite (List.map _), hstep]
  rfl

/-- Phase 4 of one axis reads nothing of what is erased but the timing of its pulse. -/
theorem erase_phase4 (total : Nat) :
    erase timing unread (phase4 total k (erase timing unread s)) = erase timing unread (phase4 total k s) := by
  have hsteps : (axisRec (erase timing unread s) k).stepsRemaining = (axisRec s k).stepsRemaining := by
    rw [axisRec_erase]; rfl
  have hdir : dirLevel (erase timing unread s).cfg (axisRec (erase timing unread s) k).direction =
      dirLevel s.cfg (axisRec s k).direction := by
    rw [axisRec_erase]; rfl
  have htrace := map_eraseEvent_phase4Events timing unread s k total
  simp only [phase4, finishes_erase, advanceWraps_erase, phase4Rec_erase, hsteps, hdir]
  simpa [erase] using htrace

end Motion

theorem erase_motionPhases (s : State) :
    erase timing unread (motionPhases (erase timing unread s)) = erase timing unread (motionPhases s) := by
  rw [motionPhases_eq, motionPhases_eq, show totalRunning (erase timing unread s) = totalRunning s from rfl]
  exact forEachAxis_hidden (fun k t => erase_phase4 timing unread t k (totalRunning s)) s

theorem map_eraseEvent_clearEvents : clearEvents.map (eraseEvent timing) = clearEvents :=
  map_eraseEvent_of_noPulse timing fun k => pulseDelays_clear k

theorem polledState_erase (s : State) (r : List Turn) :
    polledState (erase timing unread s) r = erase timing unread (polledState s r) := by
  simp only [erase, polledState, clearedState, List.map_append, map_eraseEvent_clearEvents]
  cases timing <;> rfl

theorem consumedState_erase (s : State) (r : List Turn) :
    consumedState (erase timing unread s) r = erase timing unread (consumedState s r) := by
  simp only [erase, consumedState, clearedState, List.map_append, map_eraseEvent_clearEvents]
  cases timing <;> rfl

theorem agentStep_erase (m : AgentMove) (s : State) :
    agentStep m (erase timing unread s) = erase timing unread (agentStep m s) := by
  cases m <;> rfl

/-- A step reads nothing of what is erased but for the timing it records. -/
theorem erase_step : ∀ s t : State, step s = .next t →
    ∃ t', step (erase timing unread s) = .next t' ∧ erase timing unread t' = erase timing unread t :=
  hide_step (erase timing unread) (fun _ => rfl) (fun _ => rfl) (fun _ => rfl) (fun _ _ => rfl)
    (fun s r => by rw [polledState_erase, erase_erase]) (fun s r => by rw [consumedState_erase, erase_erase])
    (fun i => of_hidden (erase_afterExec timing unread i)) (of_hidden (erase_motionPhases timing unread))
    fun m s => by rw [agentStep_erase, erase_erase]

end Erase

/-- Settles O33: the half of `erase_step` that erases the timing. -/
theorem timingReachesOnlyTheTrace : Obligations.TimingReachesOnlyTheTrace := by
  unfold Obligations.TimingReachesOnlyTheTrace
  rw [← erase_timing]
  exact erase_step true false

/-- Settles O34: the half of `erase_step` that erases the unread registers. -/
theorem unreadRegistersReachNothing : Obligations.UnreadRegistersReachNothing := by
  unfold Obligations.UnreadRegistersReachNothing
  rw [← erase_unread]
  exact erase_step false true

end Sys2Proof.Machine
end

/-! ### What an iteration writes and leaves alone (42_engine.md R140 to R148) -/

section
namespace Sys2Proof.Machine

/-- Settles O10: a command phase appends after the events of phase 1 and of the poll, and phase 4 appends last. -/
theorem iterationOutputOrder : Obligations.IterationOutputOrder := by
  intro s u r h
  obtain ⟨⟨cmdBytes, htx⟩, ⟨cmdEvents, htrace⟩⟩ := commandPhase_appends h
  refine ⟨motionPhases u, cmdEvents, cmdBytes, step_of_commandPhase h, htrace, htx, ?_, ?_⟩
  · rw [motionPhases_trace, htrace, totalRunning_eq]
  · rw [motionPhases_tx, htx]

/-- Settles O11: phase 1 left both outputs low, and phase 4 writes those of the axes that step. -/
theorem outputsAfterIteration : Obligations.OutputsAfterIteration := by
  intro s u r h
  obtain ⟨hcfg, -, -, -, -, -, hstep, hdir⟩ := commandPhase_frame h
  refine ⟨motionPhases u, step_of_commandPhase h, fun k => ⟨?_, ?_⟩⟩
  · rw [stepPin_motionPhases, hstep, PerAxis.get_of, ite_self]
  · rw [dirPin_motionPhases, hdir, PerAxis.get_of, hcfg, dirLevel]

/-- Settles O31: the frames of the command phase and of phases 3 and 4. -/
theorem engineKeepsCounters : Obligations.EngineKeepsCounters := by
  intro s u r h
  obtain ⟨hcfg, henc, hencA, hencB, -, hturns, -, -⟩ := commandPhase_frame h
  exact ⟨motionPhases u, step_of_commandPhase h, by simp [hcfg, henc, hencA, hencB, hturns]⟩

/-- Settles O25: phase 1 lowers STEP and a pulse leaves it low; no other agent writes it. -/
theorem stepKeepsStepLow : Obligations.StepKeepsStepLow := by
  intro s t hs ht k
  obtain ⟨-, ⟨r, u, hu, rfl⟩ | ⟨m, r, -, rfl⟩⟩ := step_cases ht
  · obtain ⟨-, -, -, -, -, -, hstep, -⟩ := commandPhase_frame hu
    rw [stepPin_motionPhases, hstep, PerAxis.get_of, ite_self]
  · rw [agentStep_stepPin]
    exact hs k

/-- Every reset value fits its width: the OPEN ones are of 32 bits, which is the width at reset. -/
theorem rangeInv_reset : RangeInv State.reset := by
  intro k
  have hzero := inSigned_zero 32
  rw [State.reset, axisRec_powerOn, (powerOn_counter_and_pins Config.params k).1]
  refine ⟨⟨hzero, hzero, hzero, Nat.two_pow_pos 32, ?_, ?_⟩, hzero⟩
  · exact (PerAxis.get_of _ k).trans_lt (Config.microstepInit k).isLt
  · exact (PerAxis.get_of _ k).trans_lt (Config.errThrInit k).isLt

/-- No pump call stands in the trace at reset (log entry 5). -/
theorem pumpInv_reset : PumpInv State.reset := by
  refine ⟨rfl, fun n => ?_⟩
  rw [show State.reset.trace = [] from rfl, List.take_nil]
  decide

/-- Settles O26: the power-on values, field by field. -/
theorem resetMeetsInvariants : Obligations.ResetMeetsInvariants := by
  obtain ⟨-, hpass⟩ := stepKeepsPassInvariant
  refine ⟨configOk_iff.2 ⟨fun k => ?_, by decide⟩, hpass Config.params, rangeInv_reset, ?_, pumpInv_reset, ?_⟩
  · cases k <;> exact Nat.succ_pos _
  · exact iff_of_false Bool.false_ne_true fun h => Bool.false_ne_true (h .a1)
  · exact fun k => (powerOn_counter_and_pins Config.params k).2.1

end Sys2Proof.Machine
end

/-! ### The overflow mark (10_state.md R37) -/

section
namespace Sys2Proof.Machine

/-- The mark after another agent's turn is the old one, or set by a tracker (R37, R102). -/
theorem posOverflow_agentStep (m : AgentMove) {s : State} (h : s.posOverflow = true) :
    (agentStep m s).posOverflow = true := by
  cases m with
  | trackerEdge k c => simp [agentStep, trackerEdge, overflowAfter, h]
  | encoderLevels => exact h
  | hostSend => exact h
  | hostRead => exact h

/-- Settles O27: the mark is only ever or-ed into. -/
theorem overflowMarkIsSticky : Obligations.OverflowMarkIsSticky := by
  intro s t ht hmark
  obtain ⟨-, ⟨r, u, hu, rfl⟩ | ⟨m, r, -, rfl⟩⟩ := step_cases ht
  · obtain ⟨-, -, -, -, hu_mark, -⟩ := commandPhase_frame hu
    exact motionPhases_posOverflow_iff.2 (.inl (hu_mark.trans hmark))
  · exact posOverflow_agentStep m hmark

/-- An edge leaves the mark as it was or sets it for a wrap (R37, R102). -/
theorem trackerEdge_posOverflow_iff {k : Axis} {c : Channel} {a b : Bool} {s : State} :
    (trackerEdge k c a b s).posOverflow = true ↔
      s.posOverflow = true ∨ ¬InSigned s.cfg.wPos (s.enc.get k + edgeDelta s.cfg c a b) := by
  simp [trackerEdge, overflowAfter, outsideSigned_iff]

/-- An edge moves the counter by ENC_INC, forward or back (R102). -/
theorem edgeDelta_eq_or (c : Params) (ch : Channel) (a b : Bool) :
    edgeDelta c ch a b = c.encInc ∨ edgeDelta c ch a b = -c.encInc := by
  unfold edgeDelta
  split
  · exact .inl rfl
  · exact .inr rfl

/-- An edge that leaves the mark false wrote the exact value (R37, R102). -/
theorem trackerEdge_exact {k : Axis} {c : Channel} {a b : Bool} {s : State} (hwidth : 16 ≤ s.cfg.wPos)
    (hmark : (trackerEdge k c a b s).posOverflow = false) :
    (trackerEdge k c a b s).enc.get k = s.enc.get k + edgeDelta s.cfg c a b := by
  rw [trackerEdge_enc, if_pos rfl]
  refine wrapS_of_inSigned (by omega) ?_
  by_contra hout
  simp [trackerEdge_posOverflow_iff.2 (.inr hout)] at hmark

/-- Settles O28: a write whose exact result is in range is exact, and one out of range sets the mark. -/
theorem unmarkedStepsAreExact : Obligations.UnmarkedStepsAreExact := by
  refine ⟨fun s t k c r hturn ht hmark => ?_, fun s u t r k hu ht hmark hsteps hcor => ?_⟩
  · obtain ⟨hc, -⟩ := step_cases ht
    obtain rfl : agentStep (.trackerEdge k c) { s with turns := r } = t := by
      simpa [step_other hc hturn] using ht
    have henc := trackerEdge_exact (s := { s with turns := r }) (configOk_iff.1 hc).2 hmark
    rw [agentStep, henc]
    rcases edgeDelta_eq_or s.cfg c (s.encA.get k) (s.encB.get k) with hd | hd
    · exact .inl (congrArg (s.enc.get k + ·) hd)
    · exact .inr (congrArg (s.enc.get k + ·) hd)
  · obtain ⟨t', ht', hest, hmark_iff⟩ := openLoopAdvance s u r hu
    obtain rfl : t' = t := by simpa [ht'] using ht
    obtain ⟨hcfg, -⟩ := commandPhase_frame hu
    have hwidth : 16 ≤ s.cfg.wPos := hcfg ▸ commandPhase_wPos hu
    rw [hest k, if_pos ⟨hsteps, hcor⟩]
    refine wrapS_of_inSigned (by omega) ?_
    by_contra hout
    simp [hmark_iff.2 (.inr ⟨k, hsteps, hcor, hout⟩)] at hmark

end Sys2Proof.Machine
end

/-! ### Replies (10_state.md R42, 43_motor_commands.md R186) -/

section
namespace Sys2Proof.Machine

/-- A concatenation of texts that some items leave empty is that of the other items. -/
theorem flatMap_ite_nil {α β : Type} (l : List α) (p : α → Bool) (f : α → List β) :
    l.flatMap (fun k => if p k = true then f k else []) = (l.filter p).flatMap f := by
  induction l with
  | nil => rfl
  | cons a l ih => cases hp : p a <;> simp [hp, ih]

/-- A whole reply of the Engine (R89, R90). -/
def IsReply (b : List Byte) : Prop := b = errorBytes ∨ ∃ k, b = doneBytes k

/-- `t` has written nothing to `tx` but whole replies since `s` (R186). -/
def RepliesOnly (s t : State) : Prop :=
  ∃ replies : List (List Byte), t.tx = s.tx ++ replies.flatten ∧ ∀ b ∈ replies, IsReply b

theorem RepliesOnly.refl_of_tx {s t : State} (h : t.tx = s.tx) : RepliesOnly s t :=
  ⟨[], by simp [h], by simp⟩

theorem RepliesOnly.trans {s t u : State} (hst : RepliesOnly s t) (htu : RepliesOnly t u) : RepliesOnly s u := by
  obtain ⟨as, has, hasR⟩ := hst
  obtain ⟨bs, hbs, hbsR⟩ := htu
  refine ⟨as ++ bs, by rw [hbs, has, List.flatten_append, List.append_assoc], fun b hb => ?_⟩
  exact (List.mem_append.1 hb).elim (hasR b) (hbsR b)

/-- The completion replies of some axes are whole replies (R90). -/
theorem RepliesOnly.of_doneBytes {s t : State} {ks : List Axis} (h : t.tx = s.tx ++ ks.flatMap doneBytes) :
    RepliesOnly s t := by
  refine ⟨ks.map doneBytes, by rw [h, List.flatMap_def], fun b hb => ?_⟩
  obtain ⟨k, -, hk⟩ := List.mem_map.1 hb
  exact .inr ⟨k, hk.symm⟩

/-- A command writes whole replies (R186). -/
theorem repliesOnly_afterExec (i : Instr) (s : State) : RepliesOnly s (afterExec i s) := by
  by_cases hraise : RaisesError s.cfg i
  · rw [afterExec_of_raisesError hraise]
    exact ⟨[errorBytes], by simp [withErrorReply], by simp [IsReply]⟩
  · cases afterExec_answers hraise with
    | stop hstop => exact .of_doneBytes (hstop ▸ stop_tx s)
    | pump p hp => exact .refl_of_tx (hp ▸ drivePump_tx p s)
    | leds es htx => exact .refl_of_tx htx

/-- Settles O32: the trace is appended to by the command phase and by phase 4, and both write whole replies. -/
theorem outputsOnlyGrow : Obligations.OutputsOnlyGrow := by
  refine ⟨fun s t ht => ?_, fun s u t r hu ht => ?_⟩
  · obtain ⟨-, ⟨r, u, hu, rfl⟩ | ⟨m, r, -, rfl⟩⟩ := step_cases ht
    · obtain ⟨-, es, hes⟩ := commandPhase_appends hu
      exact ⟨_, by rw [motionPhases_trace, hes, List.append_assoc, List.append_assoc, List.append_assoc]⟩
    · exact ⟨[], by rw [agentStep_trace, List.append_nil]⟩
  · obtain rfl : motionPhases u = t := by simpa [step_of_commandPhase hu] using ht
    have hcommand : RepliesOnly s u := by
      rcases commandPhase_cases hu with ⟨-, rfl⟩ | ⟨i, -, rfl⟩
      · exact .refl_of_tx rfl
      · exact repliesOnly_afterExec i (consumedState s r)
    exact hcommand.trans (.of_doneBytes (by rw [motionPhases_tx, flatMap_ite_nil]))

end Sys2Proof.Machine
end

/-! ### Passes: stepping, completion and the one correction (42_engine.md R144 to R153) -/

section
namespace Sys2Proof.Machine

section MotionStates
variable {a : MotorAxis}

theorem motionState_idle_iff : motionState a = some .idle ↔ a.stepsRemaining = 0 ∧ a.running = false := by
  unfold motionState
  split_ifs <;> simp_all <;> omega

theorem motionState_moving_iff : motionState a = some .moving ↔ 0 < a.stepsRemaining ∧ a.correcting = false := by
  unfold motionState
  split_ifs <;> simp_all

theorem motionState_correcting_iff :
    motionState a = some .correcting ↔ 0 < a.stepsRemaining ∧ a.correcting = true := by
  unfold motionState
  split_ifs <;> simp_all

/-- R34 leaves no axis running without steps (R33). -/
theorem motionState_ne_none (h : AxisPassInv a) : motionState a ≠ none := by
  obtain ⟨hrun, -⟩ := h
  unfold motionState
  split_ifs <;> simp_all

end MotionStates

section Phase4States
variable {s : State} {k : Axis}

/-- An axis that finishes is Idle (R152). -/
theorem motionState_of_finishes (h : finishes s k = true) : motionState (phase4Rec s k) = some .idle := by
  obtain ⟨hpass, -⟩ := finishes_iff.1 h
  obtain ⟨-, hle⟩ := completesPass_iff.1 hpass
  rw [phase4Rec_of_finishes h]
  exact motionState_idle_iff.2 ⟨Nat.sub_eq_zero_of_le hle, rfl⟩

/-- An axis whose correction is due is Correcting (R151). -/
theorem motionState_of_correctionDue (hunit : 1 ≤ s.cfg.posUnit.get k) (hpass : completesPass s k = true)
    (hdue : correctionDue s k = true) : motionState (phase4Rec s k) = some .correcting := by
  rw [phase4Rec_of_correctionDue hpass hdue]
  exact motionState_correcting_iff.2 ⟨correction_steps_pos hunit hdue, rfl⟩

/-- A step that is not the last one leaves the axis in its state (R33). -/
theorem motionState_steppedRec (h : 1 < (axisRec s k).stepsRemaining) :
    motionState (steppedRec s k) = motionState (axisRec s k) := by
  have hleft : 0 < (steppedRec s k).stepsRemaining := Nat.sub_pos_of_lt h
  rw [motionState, motionState, if_pos hleft, if_pos (Nat.zero_lt_of_lt h)]
  rfl

/-- An axis with no step to make keeps its estimate (R144). -/
theorem advanced_of_noStep (h : (axisRec s k).stepsRemaining = 0) : advanced s k = (axisRec s k).expectedPosition := by
  rw [advanced_eq_ite, if_neg fun hstep => hstep.1.ne' h]

/-- A correction pass keeps the estimate (R146). -/
theorem advanced_of_correcting (h : (axisRec s k).correcting = true) :
    advanced s k = (axisRec s k).expectedPosition := by
  rw [advanced_eq_ite, if_neg fun hstep => by simp [h] at hstep]

/-- A step of a move pass advances the estimate by one unit and wraps (R146). -/
theorem advanced_of_moving (hsteps : 0 < (axisRec s k).stepsRemaining) (hcor : (axisRec s k).correcting = false) :
    advanced s k = wrapS s.cfg.wPos ((axisRec s k).expectedPosition +
      (if (axisRec s k).direction = true then (s.cfg.posUnit.get k : Int) else -(s.cfg.posUnit.get k : Int))) := by
  rw [advanced_eq_ite, if_pos ⟨hsteps, hcor⟩]

/-- A completed pass takes the snapshot (R150). -/
theorem encoderPosition_of_completesPass (h : completesPass s k = true) :
    (phase4Rec s k).encoderPosition = s.enc.get k := by
  rw [phase4Rec, if_pos h]
  split <;> rfl

/-- `finishes` in the terms of the specification (R149, R151 to R153). -/
theorem finishes_eq : finishes s k =
    ((axisRec s k).running && decide ((axisRec s k).stepsRemaining ≤ 1) &&
      ((axisRec s k).correcting || decide (passError s k < s.cfg.posUnit.get k))) := by
  rw [Bool.eq_iff_iff, finishes_iff, completesPass_iff]
  simp

/-- The two ends of a move pass: less than one unit off the axis finishes, else it corrects (R150 to R152). -/
theorem completed_movePass (hunit : 1 ≤ s.cfg.posUnit.get k) (hpass : completesPass s k = true)
    (hcor : (axisRec s k).correcting = false) :
    (passError s k < s.cfg.posUnit.get k →
      motionState (phase4Rec s k) = some .idle ∧ (phase4Rec s k).direction = (axisRec s k).direction ∧
        finishes s k = true) ∧
    (s.cfg.posUnit.get k ≤ passError s k →
      motionState (phase4Rec s k) = some .correcting ∧
        (phase4Rec s k).stepsRemaining = passError s k / s.cfg.posUnit.get k ∧
        ((phase4Rec s k).direction = true ↔ s.enc.get k < advanced s k)) := by
  constructor
  · intro hnear
    have hfin := finishes_iff.2 ⟨hpass, .inr hnear⟩
    exact ⟨motionState_of_finishes hfin, by rw [phase4Rec_of_finishes hfin, steppedRec], hfin⟩
  · intro hfar
    have hdue := correctionDue_iff.2 ⟨hcor, hfar⟩
    refine ⟨motionState_of_correctionDue hunit hpass hdue, ?_⟩
    rw [phase4Rec_of_correctionDue hpass hdue]
    exact ⟨rfl, decide_eq_true_iff⟩

end Phase4States

/-- Settles O12: without a completed pass phase 4 leaves the stepped record. -/
theorem steppingAxis : Obligations.SteppingAxis := by
  intro s u r h
  obtain ⟨hcfg, -⟩ := commandPhase_frame h
  refine ⟨motionPhases u, step_of_commandPhase h, fun k hno => ?_⟩
  rw [axisRec_motionPhases, phase4Rec_of_not_completesPass hno, steppedRec, advanced, hcfg]
  congr 1
  split_ifs <;> rfl

/-- Settles O14: `finishes` picks the replies, and the two cases of a completed pass give the record. -/
theorem completingAxis : Obligations.CompletingAxis := by
  intro s u r h
  obtain ⟨hcfg, henc, -⟩ := commandPhase_frame h
  rw [← hcfg, ← henc]
  refine ⟨motionPhases u, step_of_commandPhase h, ?_, fun k hrun hle => ?_⟩
  · rw [motionPhases_tx, flatMap_ite_nil, funext fun k => finishes_eq (s := u) (k := k)]
    rfl
  · have hpass := completesPass_iff.2 ⟨hrun, hle⟩
    rw [axisRec_motionPhases]
    refine ⟨encoderPosition_of_completesPass hpass, phase4Rec_expectedPosition u k, fun ⟨hcor, hfar⟩ => ?_,
      fun hor => ?_, ?_⟩
    · have hdue : correctionDue u k = true := correctionDue_iff.2 ⟨hcor, hfar⟩
      rw [phase4Rec_of_correctionDue hpass hdue]
      exact ⟨hrun, rfl, rfl, rfl, correction_steps_pos (commandPhase_posUnit h k) hdue⟩
    · have hfin : finishes u k = true := finishes_iff.2 ⟨hpass, hor⟩
      rw [phase4Rec_of_finishes hfin]
      exact ⟨rfl, rfl, rfl, Nat.sub_eq_zero_of_le hle⟩
    · unfold phase4Rec
      split_ifs <;> exact ⟨rfl, rfl, rfl, rfl, rfl⟩

/-- Settles O15: for a correcting axis no correction is due, so its pass counts down and its last step finishes it. -/
theorem singleShotCorrection : Obligations.SingleShotCorrection := by
  intro s r k hc he hn hcor hrun hsteps
  refine ⟨_, step_of_commandPhase (commandPhase_of_length_ne hc he hn), ?_⟩
  rw [axisRec_motionPhases, phase4Rec_expectedPosition,
    advanced_of_correcting (s := polledState s r) hcor]
  rcases Nat.eq_or_lt_of_le hsteps with hlast | hmore
  · have hfin : finishes (polledState s r) k = true :=
      finishes_iff.2 ⟨completesPass_iff.2 ⟨hrun, hlast.ge⟩, .inl hcor⟩
    refine ⟨?_, rfl, fun _ => motionState_of_finishes hfin, fun hne => absurd hlast.symm hne⟩
    rw [phase4Rec_of_finishes hfin]
    rfl
  · have hno : completesPass (polledState s r) k = false :=
      Bool.eq_false_iff.2 fun hpass => (completesPass_iff.1 hpass).2.not_gt hmore
    rw [phase4Rec_of_not_completesPass hno, motionState_steppedRec (s := polledState s r) hmore]
    exact ⟨rfl, rfl, fun hlast => absurd hlast hmore.ne', fun _ => motionState_correcting_iff.2 ⟨hsteps, hcor⟩⟩

/-- Phase 4 leaves an Idle axis as it is (R144, R149). -/
theorem phase4Rec_of_idle {s : State} {k : Axis} (h : motionState (axisRec s k) = some .idle) :
    phase4Rec s k = axisRec s k := by
  obtain ⟨hsteps, hrun⟩ := motionState_idle_iff.1 h
  have hkept : (axisRec s k).stepsRemaining - 1 = (axisRec s k).stepsRemaining := by rw [hsteps]
  rw [phase4Rec_of_not_completesPass (by simp [completesPass, hrun]), steppedRec, advanced_of_noStep hsteps, hkept]

/-- Settles O18: R34 makes a stepping axis a running one, and the three cases of phase 4 are the transitions. -/
theorem motionStateTransitions : Obligations.MotionStateTransitions := by
  intro s r hs hc he hn
  have hu := commandPhase_of_length_ne hc he hn
  refine ⟨_, step_of_commandPhase hu, fun k => ?_⟩
  obtain ⟨hrun, -⟩ := hs k
  rw [axisRec_motionPhases]
  refine ⟨fun hidle => ?_, fun hmoving => ?_, fun hcorr => ?_, motionState_ne_none (hs k)⟩
  · rw [phase4Rec_of_idle (s := polledState s r) hidle]
    exact hidle
  · obtain ⟨hsteps, -⟩ := motionState_moving_iff.1 hmoving
    rcases phase4_cases (polledState s r) k with hno | ⟨hpass, hdue⟩ | hfin
    · have hmore := one_lt_steps_of_not_completesPass hno (hrun.2 hsteps)
      rw [phase4Rec_of_not_completesPass hno, motionState_steppedRec hmore]
      exact .inl hmoving
    · exact .inr (.inl (motionState_of_correctionDue (commandPhase_posUnit hu k) hpass hdue))
    · exact .inr (.inr (motionState_of_finishes hfin))
  · obtain ⟨hsteps, hcor⟩ := motionState_correcting_iff.1 hcorr
    rcases phase4_cases (polledState s r) k with hno | ⟨-, hdue⟩ | hfin
    · have hmore := one_lt_steps_of_not_completesPass hno (hrun.2 hsteps)
      rw [phase4Rec_of_not_completesPass hno, motionState_steppedRec hmore]
      exact .inl hcorr
    · obtain ⟨hnot, -⟩ := correctionDue_iff.1 hdue
      exact absurd (hcor.symm.trans hnot) (by decide)
    · exact .inr (motionState_of_finishes hfin)

/-- With an Idle axis phase 4 of that axis does nothing. -/
theorem phase4_of_idle (total : Nat) {s : State} {k : Axis} (h : motionState (axisRec s k) = some .idle) :
    phase4 total k s = s := by
  obtain ⟨hsteps, hrun⟩ := motionState_idle_iff.1 h
  have hfin : finishes s k = false := by simp [finishes, completesPass, hrun]
  have hrec : s.axes.set k (axisRec s k) = s.axes := PerAxis.set_get s.axes k
  simp [phase4, phase4Rec_of_idle h, phase4Events, advanceWraps, hsteps, hfin, hrec]

/-- With every axis Idle phases 3 and 4 do nothing (R280). -/
theorem motionPhases_of_idle {s : State} (h : ∀ k, motionState (axisRec s k) = some .idle) :
    motionPhases s = s := by
  rw [motionPhases_eq]
  refine forEachAxis_holds (P := fun t => t = s) s (fun k t ht => ?_) rfl
  rw [ht, phase4_of_idle _ (h k)]

/-- Settles O20: the empty queue is no frame, and phases 3 and 4 have nothing to do. -/
theorem settledIterationOnlyClears : Obligations.SettledIterationOnlyClears := by
  rintro s r hc he ⟨hrx, hidle⟩
  have hstep := step_of_commandPhase (commandPhase_of_length_ne hc he (by rw [hrx]; decide))
  rw [motionPhases_of_idle (s := polledState s r) hidle] at hstep
  exact ⟨hstep, hrx, hidle⟩

/-- Settles O43: after Stop every axis is Idle, so phases 3 and 4 do nothing to what Stop left. -/
theorem stopIterationMakesNoPulse : Obligations.StopIterationMakesNoPulse := by
  intro s r p1 p2 p3 hc he hrx
  have hu := commandPhase_of_decode (i := .stop p1 p2 p3) hc he (by rw [hrx]; rfl)
  rw [afterExec] at hu
  have hidle (k : Axis) : motionState (axisRec (forEachAxis stopAxis (consumedState s r)) k) = some .idle := by
    rw [axisRec_stop]
    exact motionState_idle_iff.2 ⟨rfl, rfl⟩
  refine ⟨_, step_of_commandPhase hu, ?_, fun k => ?_, ?_⟩
  · rwa [motionPhases_of_idle hidle]
  · obtain ⟨hsteps, -⟩ := motionState_idle_iff.1 (hidle k)
    rw [iteration_pulses hu, if_neg hsteps.not_gt]
  · rw [motionPhases_of_idle hidle, stop_tx]
    rfl

/-- The reply of an axis that finishes stands among the events of its iteration (R152). -/
theorem doneEvent_mem_of_finishes {s u : State} {r : List Turn} (h : CommandPhase s r u) {k : Axis}
    (hfin : finishes u k = true) : ∃ es, (motionPhases u).trace = s.trace ++ es ∧ doneEvent k ∈ es := by
  obtain ⟨-, es, hes⟩ := commandPhase_appends h
  refine ⟨_, by rw [motionPhases_trace, hes, List.append_assoc, List.append_assoc, List.append_assoc], ?_⟩
  have hmem : doneEvent k ∈ phase4Events u (totalRunning u) k := by simp [phase4Events, hfin]
  simp only [List.mem_append, List.mem_flatMap]
  exact .inr (.inr (.inr ⟨k, Axis.mem_all k, hmem⟩))

/-- Settles O46: the Move leaves its axis running with no step to make, and phase 4 completes that pass. -/
theorem moveOfZeroCompletesAtOnce : Obligations.MoveOfZeroCompletesAtOnce := by
  intro s r sel p2 k hc he hrx hcount hsel
  have hu := commandPhase_of_decode (i := .move sel (moveDir p2) (moveCount p2 0#8)) hc he (by rw [hrx]; rfl)
  have hexec : afterExec (.move sel (moveDir p2) (moveCount p2 0#8)) (consumedState s r) =
      setAxisRec k { axisRec s k with
        direction := decide (128 ≤ p2.toNat), stepsRemaining := 0, running := true, correcting := false }
        (consumedState s r) := by
    simp only [afterExec, consumedState_cfg, axisOf_eq_some.2 hsel, moveAxis_decoded, hcount]
    rfl
  rw [hexec] at hu
  generalize hu_def : setAxisRec k _ (consumedState s r) = u at hu
  have hrec : axisRec u k = { axisRec s k with
      direction := decide (128 ≤ p2.toNat), stepsRemaining := 0, running := true, correcting := false } := by
    rw [← hu_def, axisRec_setAxisRec_same]
  obtain ⟨hcfg, henc, -⟩ := commandPhase_frame hu
  have hest : advanced u k = (axisRec s k).expectedPosition := by
    rw [advanced_of_noStep (by rw [hrec]), hrec]
  have hpass : completesPass u k = true := completesPass_iff.2 (by simp [hrec])
  obtain ⟨hnear, hfar⟩ := completed_movePass (commandPhase_posUnit hu k) hpass (by rw [hrec])
  rw [passError, hest, hcfg, henc] at hnear hfar
  refine ⟨_, step_of_commandPhase hu, ?_, ?_⟩
  · rw [iteration_pulses hu, hrec]
    rfl
  · rw [axisRec_motionPhases, encoderPosition_of_completesPass hpass, phase4Rec_expectedPosition, hest, henc]
    refine ⟨rfl, rfl, fun h => ?_, hfar⟩
    obtain ⟨hidle, -, hfin⟩ := hnear h
    obtain ⟨es, hes, hmem⟩ := doneEvent_mem_of_finishes hu hfin
    exact ⟨hidle, by rwa [hes, List.drop_left]⟩

end Sys2Proof.Machine
end

/-! ### A whole move pass (42_engine.md R157) -/

section
namespace Sys2Proof.Machine

/-- How far `n` steps move the open-loop estimate of axis `k` in its direction. -/
def travel (s : State) (k : Axis) (n : Nat) : Int :=
  (if (axisRec s k).direction = true then (n : Int) else -(n : Int)) * (s.cfg.posUnit.get k : Int)

theorem travel_succ (s : State) (k : Axis) (n : Nat) :
    travel s k (n + 1) = travel s k n +
      (if (axisRec s k).direction = true then (s.cfg.posUnit.get k : Int) else -(s.cfg.posUnit.get k : Int)) := by
  unfold travel
  split <;> push_cast <;> ring

/-- `t` is where `n` iterations without a frame have brought the move pass of axis `k` that `s` is at: the estimate
went `n` units, one pulse was made per iteration, and the axis still moves while steps are left. -/
structure MovePassAfter (n : Nat) (s t : State) (k : Axis) : Prop where
  cfg : t.cfg = s.cfg
  enc : t.enc = s.enc
  turns : t.turns = []
  rx : t.rx = s.rx
  estimate : (axisRec t k).expectedPosition = wrapS s.cfg.wPos ((axisRec s k).expectedPosition + travel s k n)
  pulses : ∃ es, t.trace = s.trace ++ es ∧ (pulseDelays k es).length = n
  moving : n < (axisRec s k).stepsRemaining →
    (axisRec t k).stepsRemaining = (axisRec s k).stepsRemaining - n ∧ (axisRec t k).running = true ∧
      (axisRec t k).correcting = false ∧ (axisRec t k).direction = (axisRec s k).direction

section MovePass
variable {n : Nat} {s v : State} {k : Axis}

/-- The command phase of the next iteration of a move pass: there is no frame (R120). -/
theorem MovePassAfter.commandPhase (h : MovePassAfter n s v k) (hc : configOk s.cfg = true) (hn : s.rx.length ≠ 4) :
    CommandPhase v [] (polledState v []) :=
  commandPhase_of_length_ne (h.cfg ▸ hc) (.inl ⟨h.turns, rfl⟩) (h.rx ▸ hn)

/-- One more iteration of a move pass makes one more step (R144, R146). -/
theorem MovePassAfter.succ (h : MovePassAfter n s v k) (hc : configOk s.cfg = true) (hn : s.rx.length ≠ 4)
    (hleft : n < (axisRec s k).stepsRemaining) :
    MovePassAfter (n + 1) s (motionPhases (polledState v [])) k := by
  have hu := h.commandPhase hc hn
  obtain ⟨hsteps, hrun, hcor, hdir⟩ := h.moving hleft
  have hpos : 0 < (axisRec v k).stepsRemaining := by omega
  refine ⟨?_, ?_, ?_, ?_, ?_, ?_, fun hmore => ?_⟩
  · rw [motionPhases_cfg, polledState_cfg, h.cfg]
  · rw [motionPhases_enc, polledState_enc, h.enc]
  · rw [motionPhases_turns, polledState_turns]
  · rw [motionPhases_rx, polledState_rx, h.rx]
  · rw [axisRec_motionPhases, phase4Rec_expectedPosition, advanced_of_moving (s := polledState v []) hpos hcor,
      axisRec_polledState, polledState_cfg, h.cfg, h.estimate, hdir, wrapS_add_wrapS, travel_succ, add_assoc]
  · obtain ⟨es, hes, hlen⟩ := h.pulses
    obtain ⟨es', hes'⟩ := outputsOnlyGrow.1 v _ (step_of_commandPhase hu)
    have hpulse := iteration_pulses hu k
    rw [hes', List.drop_left, axisRec_polledState, if_pos hpos] at hpulse
    refine ⟨es ++ es', by rw [hes', hes, List.append_assoc], ?_⟩
    rw [pulseDelays_append, List.length_append, hlen, hpulse, List.length_singleton]
  · have hno : completesPass (polledState v []) k = false :=
      Bool.eq_false_iff.2 fun hpass => by
        have hle : (axisRec v k).stepsRemaining ≤ 1 := (completesPass_iff.1 hpass).2
        omega
    rw [axisRec_motionPhases, phase4Rec_of_not_completesPass hno]
    exact ⟨by simp only [steppedRec, axisRec_polledState, hsteps]; omega, hrun, hcor, hdir⟩

/-- The move pass runs: the Engine's iterations go on and each makes its step (R157). -/
theorem exists_movePassAfter (hc : configOk s.cfg = true) (hrange : RangeInv s) (hturns : s.turns = [])
    (hn : s.rx.length ≠ 4) (hrun : (axisRec s k).running = true) (hcor : (axisRec s k).correcting = false) (n : Nat)
    (hle : n ≤ (axisRec s k).stepsRemaining) : ∃ t, Sys2Proof.core.run n s = .next t ∧ MovePassAfter n s t k := by
  induction n with
  | zero =>
    obtain ⟨⟨-, hest, -⟩, -⟩ := hrange k
    refine ⟨s, rfl, rfl, rfl, hturns, rfl, ?_, ⟨[], (List.append_nil _).symm, rfl⟩, fun _ => ⟨rfl, hrun, hcor, rfl⟩⟩
    have hwidth := (configOk_iff.1 hc).2
    have htravel : travel s k 0 = 0 := by simp [travel]
    rw [htravel, add_zero, wrapS_of_inSigned (by omega) hest]
  | succ n ih =>
    obtain ⟨v, hrun_n, hv⟩ := ih (Nat.le_of_succ_le hle)
    exact ⟨_, (core_run_succ n s v hrun_n).trans (step_of_commandPhase (hv.commandPhase hc hn)), hv.succ hc hn hle⟩

/-- The last iteration of a move pass completes it: the counter is read, and the axis finishes or corrects (R149 to
R152). -/
theorem MovePassAfter.last (h : MovePassAfter n s v k) (hc : configOk s.cfg = true) (hn : s.rx.length ≠ 4)
    (hlast : n + 1 = (axisRec s k).stepsRemaining) {t : State} (ht : t = motionPhases (polledState v [])) :
    (axisRec t k).encoderPosition = s.enc.get k ∧
    (((axisRec t k).expectedPosition - s.enc.get k).natAbs < s.cfg.posUnit.get k →
      motionState (axisRec t k) = some .idle ∧ (axisRec t k).direction = (axisRec s k).direction ∧
      doneEvent k ∈ t.trace.drop s.trace.length) ∧
    (s.cfg.posUnit.get k ≤ ((axisRec t k).expectedPosition - s.enc.get k).natAbs →
      motionState (axisRec t k) = some .correcting ∧
      (axisRec t k).stepsRemaining =
        ((axisRec t k).expectedPosition - s.enc.get k).natAbs / s.cfg.posUnit.get k ∧
      ((axisRec t k).direction = true ↔ s.enc.get k < (axisRec t k).expectedPosition)) := by
  have hu := h.commandPhase hc hn
  obtain ⟨hsteps, hrun, hcor, hdir⟩ := h.moving (by omega)
  have hpass : completesPass (polledState v []) k = true :=
    completesPass_iff.2 ⟨hrun, show (axisRec v k).stepsRemaining ≤ 1 by omega⟩
  obtain ⟨hnear, hfar⟩ := completed_movePass (commandPhase_posUnit hu k) hpass hcor
  rw [ht, ← h.cfg, ← h.enc, axisRec_motionPhases, phase4Rec_expectedPosition]
  refine ⟨encoderPosition_of_completesPass hpass, fun herr => ?_, hfar⟩
  obtain ⟨hidle, hdir', hfin⟩ := hnear herr
  obtain ⟨es, hes, -⟩ := h.pulses
  obtain ⟨es', hes', hmem⟩ := doneEvent_mem_of_finishes hu hfin
  refine ⟨hidle, hdir'.trans hdir, ?_⟩
  rw [hes', hes, List.append_assoc, List.drop_left]
  exact List.mem_append_right es hmem

end MovePass

/-- Settles O19: `MovePassAfter` holds all along the pass, and the iteration of its last step completes it. -/
theorem movePassRuns : Obligations.MovePassRuns := by
  intro n s k hc hrange hturns hn hrun hcor hle
  obtain ⟨t, hrun_n, ht⟩ := exists_movePassAfter hc hrange hturns hn hrun hcor n hle
  obtain ⟨es, hes, hlen⟩ := ht.pulses
  refine ⟨t, hrun_n, ht.estimate, by rw [hes, List.drop_left, hlen], ht.moving, fun hone hlast => ?_⟩
  obtain ⟨m, rfl⟩ := Nat.exists_eq_succ_of_ne_zero (Nat.one_le_iff_ne_zero.1 hone)
  obtain ⟨v, hrun_m, hv⟩ := exists_movePassAfter hc hrange hturns hn hrun hcor m (Nat.le_of_succ_le hle)
  have hstep := (core_run_succ m s v hrun_m).trans (step_of_commandPhase (hv.commandPhase hc hn))
  exact hv.last hc hn hlast (Host.Outcome.next.inj (hrun_n.symm.trans hstep))

end Sys2Proof.Machine
end

/-! ### Trackers and the environment (40_quadrature_tracker.md R100 to R105, R66, R246, R254) -/

section
namespace Sys2Proof.Machine

/-- The direction of an edge in the words of R101: of channel A when the levels differ, of channel B when they are
equal. -/
theorem edgeDelta_eq_ite (c : Params) (ch : Channel) (a b : Bool) :
    edgeDelta c ch a b =
      if (ch = .chA ∧ a ≠ b) ∨ (ch = .chB ∧ a = b) then (c.encInc : Int) else -(c.encInc : Int) := by
  cases ch <;> simp [edgeDelta, forwardEdge]

/-- Settles O35: the edge's exact result is `v`, and the wrapped value is in range and congruent to it. -/
theorem trackerTurn : Obligations.TrackerTurn := by
  intro s k c r v hc hturn hv
  have hwidth : 1 ≤ s.cfg.wPos := le_trans (by decide) (configOk_iff.1 hc).2
  rw [← edgeDelta_eq_ite] at hv
  have henc : (agentStep (.trackerEdge k c) { s with turns := r }).enc.get k = wrapS s.cfg.wPos v := by
    rw [agentStep, trackerEdge_enc, if_pos rfl, hv]
  have hmark : (agentStep (.trackerEdge k c) { s with turns := r }).posOverflow = true ↔
      s.posOverflow = true ∨ ¬InSigned s.cfg.wPos v := by
    rw [agentStep, trackerEdge_posOverflow_iff, hv]
  refine ⟨_, step_other hc hturn, ?_, ?_, ?_, hmark⟩
  · rw [henc, hv]
    rfl
  · rw [henc]
    exact wrapS_inSigned hwidth v
  · rw [henc]
    exact wrapS_dvd s.cfg.wPos v

/-- Settles O40: the other agents' steps are the updates named. -/
theorem environmentTurns : Obligations.EnvironmentTurns := fun _ _ hc =>
  ⟨fun _ _ _ h => step_other hc h, fun _ h => step_other hc h, fun _ h => step_other hc h⟩

/-- An edge on the counter of its own axis (R102). -/
theorem trackerEdge_enc_same (k : Axis) (c : Channel) (a b : Bool) (s : State) :
    (trackerEdge k c a b s).enc.get k = wrapS s.cfg.wPos (s.enc.get k + edgeDelta s.cfg c a b) := by
  rw [trackerEdge_enc, if_pos rfl]

@[simp] theorem trackerEdge_cfg (k : Axis) (c : Channel) (a b : Bool) (s : State) :
    (trackerEdge k c a b s).cfg = s.cfg := rfl

/-- Settles O36: the wraps inside the sum drop out, and the increments add up. -/
theorem quadratureCycles : Obligations.QuadratureCycles := by
  intro s k
  simp only [trackerEdge_enc_same, trackerEdge_cfg, wrapS_add_wrapS]
  refine ⟨congrArg _ ?_, congrArg _ ?_, congrArg _ ?_⟩ <;> simp [edgeDelta, forwardEdge] <;> ring

/-- Settles O37: different axes have different counters, and the mark collects both wraps in either order. -/
theorem trackersOfDifferentAxesCommute : Obligations.TrackersOfDifferentAxesCommute := by
  intro s j k c d a b x y hjk
  simp only [trackerEdge, setEnc, markOverflow, overflowAfter, PerAxis.get_set_ne _ _ hjk,
    PerAxis.get_set_ne _ _ hjk.symm, PerAxis.set_comm _ _ _ hjk, Bool.or_right_comm]

/-- An edge writes a counter and the mark and nothing else (R102, R104). -/
theorem trackerEdge_eq_overlay (k : Axis) (c : Channel) (a b : Bool) (s : State) :
    trackerEdge k c a b s = overlay (trackerEdge k c a b s).enc (trackerEdge k c a b s).posOverflow s.turns s := rfl

/-- Settles O38: no command reads or writes what an edge does. -/
theorem trackerCommutesWithCommands : Obligations.TrackerCommutesWithCommands := by
  intro i s t k c a b h
  rw [exec_eq] at h ⊢
  obtain rfl : afterExec i s = t := by simpa using h
  obtain ⟨hcfg, henc, -, -, hmark, -, -, -, hturns⟩ := afterExec_frame s i
  rw [trackerEdge_eq_overlay, afterExec_overlay]
  simp only [trackerEdge, overlay, setEnc, markOverflow, hcfg, henc, hmark, hturns]

/-- An edge of another axis is out of sight of an axis's phase 4 (R104). -/
theorem axisView_trackerEdge {j k : Axis} (h : j ≠ k) (c : Channel) (a b : Bool) (s : State) :
    axisView j (trackerEdge k c a b s) = axisView j s := by
  simp only [axisView, trackerEdge_enc, if_neg h]
  rfl

/-- The phase 4 of an axis commutes with an edge of another axis, and with one of its own when it takes no snapshot. -/
theorem phase4_trackerEdge {j k : Axis} {s : State} (h : j ≠ k ∨ completesPass s k = false) (total : Nat)
    (c : Channel) (a b : Bool) :
    phase4 total j (trackerEdge k c a b s) = trackerEdge k c a b (phase4 total j s) := by
  have hsame : phase4Rec (trackerEdge k c a b s) j = phase4Rec s j ∧
      finishes (trackerEdge k c a b s) j = finishes s j := by
    by_cases hjk : j = k
    · have hno : completesPass s j = false := hjk ▸ h.resolve_left (not_not_intro hjk)
      have hno' : completesPass (trackerEdge k c a b s) j = false := hno
      rw [phase4Rec_of_not_completesPass hno, phase4Rec_of_not_completesPass hno', finishes, finishes, hno, hno']
      exact ⟨rfl, rfl⟩
    · obtain ⟨hrec, -, hfin, -⟩ := phase4_congr (axisView_trackerEdge hjk c a b s)
      exact ⟨hrec, hfin⟩
  obtain ⟨hrec, hfin⟩ := hsame
  simp only [phase4, phase4Events, hrec, hfin]
  simp only [trackerEdge, setEnc, markOverflow, overflowAfter]
  rw [Bool.or_right_comm]
  rfl

/-- A loop commutes with `F` when the bodies of the other axes do, and the body of axis `k` does on the states `P`,
which those bodies neither leave nor enter. -/
theorem forEachAxis_commutes_of_own {body : Axis → State → State} {F : State → State} {P : State → Prop} (k : Axis)
    (own : ∀ t, P t → body k (F t) = F (body k t)) (others : ∀ j t, j ≠ k → body j (F t) = F (body j t))
    (keep : ∀ j t, j ≠ k → (P (body j t) ↔ P t)) {s : State} (hs : P s) :
    forEachAxis body (F s) = F (forEachAxis body s) := by
  unfold forEachAxis
  cases k <;> simp [own, others, keep, hs]

/-- Phases 3 and 4 commute with an edge of an axis that takes no snapshot (R66). -/
theorem motionPhases_trackerEdge {k : Axis} {s : State} (h : completesPass s k = false) (c : Channel) (a b : Bool) :
    motionPhases (trackerEdge k c a b s) = trackerEdge k c a b (motionPhases s) := by
  rw [motionPhases_eq, motionPhases_eq, show totalRunning (trackerEdge k c a b s) = totalRunning s from rfl]
  refine forEachAxis_commutes_of_own (F := trackerEdge k c a b) (P := fun t => completesPass t k = false) k
    (fun t ht => phase4_trackerEdge (.inr ht) _ c a b) (fun j t hj => phase4_trackerEdge (.inl hj) _ c a b)
    (fun j t hj => ?_) h
  have hrec : axisRec (phase4 (totalRunning s) j t) k = axisRec t k := congrArg (·.2.1) (axisView_phase4 _ t hj)
  rw [completesPass, hrec, completesPass]

/-- Two steps of a run. -/
theorem core_run_two {s v : State} (h : step s = .next v) : Sys2Proof.core.run 2 s = step v :=
  core_run_succ 1 s v ((core_run_succ 0 s s rfl).trans h)

/-- An edge after a step, with the levels that the step left (R100). -/
theorem core_run_two_edge {s w : State} {k : Axis} {c : Channel} (hc : configOk w.cfg = true)
    (h : step s = .next { w with turns := .other (.trackerEdge k c) :: w.turns }) :
    Sys2Proof.core.run 2 s = .next (trackerEdge k c (w.encA.get k) (w.encB.get k) w) :=
  (core_run_two h).trans (step_other (s := { w with turns := .other (.trackerEdge k c) :: w.turns }) hc rfl)

/-- An edge before a step (R100). -/
theorem core_run_edge_two {s t : State} {k : Axis} {c : Channel} {r : List Turn} (hc : configOk s.cfg = true)
    (h : step (trackerEdge k c (s.encA.get k) (s.encB.get k) { s with turns := r }) = .next t) :
    Sys2Proof.core.run 2 { s with turns := .other (.trackerEdge k c) :: r } = .next t :=
  (core_run_two (step_other (s := { s with turns := .other (.trackerEdge k c) :: r }) hc rfl)).trans h

/-- Settles O39: in either order the two steps make `trackerEdge` of what phases 3 and 4 leave, since the command phase
does not see the edge and `motionPhases_trackerEdge` moves it across phases 3 and 4. -/
theorem trackerCommutesWithIteration : Obligations.TrackerCommutesWithIteration := by
  intro s u r k c hu hno
  obtain ⟨hcfg, henc, hencA, hencB, hmark, hturns, -⟩ := commandPhase_frame hu
  obtain ⟨-, hc, -⟩ := id hu
  have hc' : configOk (motionPhases u).cfg = true := by rw [motionPhases_cfg, hcfg]; exact hc
  refine ⟨trackerEdge k c (u.encA.get k) (u.encB.get k) (motionPhases u), ?_, ?_⟩
  · have hover : overlay s.enc s.posOverflow (.other (.trackerEdge k c) :: r) u =
        { u with turns := .other (.trackerEdge k c) :: r } := by rw [overlay, henc, hmark]
    have hiter := step_of_commandPhase
      (commandPhase_overlay s.enc s.posOverflow (.other (.trackerEdge k c) :: r) hu)
    rw [hover, motion_overlay_turns, ← hturns, ← motionPhases_turns u] at hiter
    have hrun := core_run_two_edge hc' hiter
    rw [motionPhases_encA, motionPhases_encB, motionPhases_turns, hturns] at hrun
    exact hrun
  · have hover : overlay (trackerEdge k c (s.encA.get k) (s.encB.get k) s).enc
        (trackerEdge k c (s.encA.get k) (s.encB.get k) s).posOverflow r u =
        trackerEdge k c (u.encA.get k) (u.encB.get k) u := by
      simp only [trackerEdge, overlay, setEnc, markOverflow, hcfg, henc, hencA, hencB, hmark, hturns]
    have hiter := step_of_commandPhase (commandPhase_overlay
      (trackerEdge k c (s.encA.get k) (s.encB.get k) s).enc
      (trackerEdge k c (s.encA.get k) (s.encB.get k) s).posOverflow r hu)
    rw [hover, motionPhases_trackerEdge hno] at hiter
    exact core_run_edge_two hc hiter

end Sys2Proof.Machine
end
